-- ==== Sys2Proof/Word.lean ====
section
/-! DEFINITION. The word type of TWIM: every register of the controller contract and every
buffer cell is one 8-bit byte (00_scope.md R7, 20_memory.md R65). -/

namespace Sys2Proof

/-- One byte; bit 0 is the least significant bit (00_scope.md R8). -/
abbrev Byte := BitVec 8

end Sys2Proof
end

