-- ==== Sys2Proof/Syntax.lean ====
section
/-! DEFINITION. The operations of TWIM as syntax: the thirteen status reactions and the seven
host commands (00_scope.md R2), the raw words they are decoded from (30_encoding.md R90), and
the control words TWIM writes (R94, R95). -/

namespace Sys2Proof

/-- The twenty operations, one constructor per row of spec/opcode_table.json.

A status reaction carries what its status byte holds beside the code: the three bits
`STATUS_MASK` clears (30_encoding.md R91). They are the reaction's only operand, read by the
terminal-failure handler when the configuration records the whole byte (40_sequencer.md R124). -/
inductive Instr where
  /-- 40_sequencer.md R125 -/
  | sStart (ign : Byte)
  /-- 40_sequencer.md R126 -/
  | sRepeatedStart (ign : Byte)
  /-- 40_sequencer.md R127 -/
  | sWriteAddressAck (ign : Byte)
  /-- 40_sequencer.md R128 -/
  | sWriteDataAck (ign : Byte)
  /-- 40_sequencer.md R129 -/
  | sReadAddressAck (ign : Byte)
  /-- 40_sequencer.md R130 -/
  | sReadDataAck (ign : Byte)
  /-- 40_sequencer.md R131 -/
  | sReadDataNack (ign : Byte)
  /-- 40_sequencer.md R132 -/
  | sArbitrationLost (ign : Byte)
  /-- 40_sequencer.md R133 -/
  | sWriteAddressNack (ign : Byte)
  /-- 40_sequencer.md R134 -/
  | sReadAddressNack (ign : Byte)
  /-- 40_sequencer.md R135 -/
  | sWriteDataNack (ign : Byte)
  /-- 40_sequencer.md R136 -/
  | sBusError (ign : Byte)
  /-- 40_sequencer.md R137: any other code, so the code is an operand -/
  | sUnrecognized (code ign : Byte)
  /-- 41_facade.md R151 -/
  | hInit
  /-- 41_facade.md R152 -/
  | hBusy
  /-- 41_facade.md R153: the operands HC_BUF and HC_LEN -/
  | hConfigure (hcBuf hcLen : Nat)
  /-- 41_facade.md R154 -/
  | hStart
  /-- 41_facade.md R155 -/
  | hQueryResult
  /-- 41_facade.md R156 -/
  | hLastStatus
  /-- 41_facade.md R157 -/
  | hErrorCount
  deriving DecidableEq, Repr

/-- What the host presents at the command port: HC_OP (3 bits), HC_BUF, HC_LEN
(30_encoding.md R97). The operands of a command that has none are ignored. -/
structure HostWord where
  op     : BitVec 3
  hcBuf  : Nat
  hcLen  : Nat
  deriving DecidableEq, Repr, Inhabited

/-- The two formats an operation is decoded from (30_encoding.md R90). -/
inductive Raw where
  /-- SRB, a status byte. -/
  | srb (status : Byte)
  /-- HCMD, a host command word. -/
  | hcmd (word : HostWord)
  deriving DecidableEq, Repr

/-- Why a raw word is no operation. -/
inductive DecodeError where
  /-- HC_OP = 7 names no operation (30_encoding.md R100). -/
  | reservedHostCommand
  /-- HC_BUF does not fit ADDR_WIDTH bits, or HC_LEN does not fit LEN_WIDTH bits. -/
  | operandTooWide
  deriving DecidableEq, Repr

/-- The six fields of a control word (10_state.md R27, 30_encoding.md R94). -/
structure Crw where
  en  : Bool
  ie  : Bool
  ifc : Bool
  ea  : Bool
  sta : Bool
  sto : Bool
  deriving DecidableEq, Repr

/-- The seven command words (30_encoding.md R95). -/
inductive CmdWord where
  | start
  | send
  | ack
  | nack
  | stop
  | restart
  | reset
  deriving DecidableEq, Repr

/-- `CMD_IDLE` is a second name for `CMD_RESET` (30_encoding.md R95). -/
abbrev CmdWord.idle : CmdWord := .reset

end Sys2Proof
end

