-- ==== Sys2Proof/Config.lean ====
section
/-! DEFINITION. The parameters of TWIM (00_scope.md R6), the reference profile, and the free
values: what an implementation fixes and what the environment decides. -/

namespace Sys2Proof

/-- `STATE_CAPTURE` (00_scope.md R6, 90_conflicts.md C10). -/
inductive Capture where
  | masked
  | raw
  deriving DecidableEq, Repr

/-- `ERRCNT_MODE` (00_scope.md R6, 90_conflicts.md C5). -/
inductive CountMode where
  | wrap
  | saturate
  deriving DecidableEq, Repr

/-- The configuration record of 00_scope.md R6, one field per row of its table, in its order. -/
structure Cfg where
  codeStart            : Byte
  codeRepeatedStart    : Byte
  codeWriteAddressAck  : Byte
  codeWriteAddressNack : Byte
  codeWriteDataAck     : Byte
  codeWriteDataNack    : Byte
  codeArbitrationLost  : Byte
  codeReadAddressAck   : Byte
  codeReadAddressNack  : Byte
  codeReadDataAck      : Byte
  codeReadDataNack     : Byte
  codeBusError         : Byte
  codeNoState          : Byte
  codeTimeout          : Byte
  statusMask           : Byte
  stateCapture         : Capture
  bitEn                : Fin 8
  bitIe                : Fin 8
  bitIf                : Fin 8
  bitEa                : Fin 8
  bitSta               : Fin 8
  bitSto               : Fin 8
  waitBudget           : Nat
  waitDelay            : Nat
  lenWidth             : Nat
  addrWidth            : Nat
  null                 : Nat
  errcntWidth          : Nat
  errcntMode           : CountMode
  brValue              : Byte
  externalPullups      : Bool
  /-- Register addresses: no rule uses one (20_memory.md R60, R68). -/
  crAddr               : Nat
  srAddr               : Nat
  drAddr               : Nat
  brAddr               : Nat
  portAddr             : Nat
  deriving DecidableEq, Repr

/-- The twelve dispatch codes, in the order in which 30_encoding.md R92 tries them. -/
def Cfg.dispatchCodes (c : Cfg) : List Byte :=
  [c.codeStart, c.codeRepeatedStart, c.codeWriteAddressAck, c.codeWriteDataAck,
   c.codeReadAddressAck, c.codeReadDataAck, c.codeReadDataNack, c.codeArbitrationLost,
   c.codeWriteAddressNack, c.codeReadAddressNack, c.codeWriteDataNack, c.codeBusError]

/-- The six bit positions of the control word. -/
def Cfg.fieldPositions (c : Cfg) : List (Fin 8) :=
  [c.bitEn, c.bitIe, c.bitIf, c.bitEa, c.bitSta, c.bitSto]

/-- How many bits of a byte are 1. -/
def popCount (b : Byte) : Nat :=
  ((List.range 8).filter fun k => b.getLsbD k).length

/-- The constraints 00_scope.md R6 puts on the parameters. -/
structure Cfg.Valid (c : Cfg) : Prop where
  codesDistinct    : c.dispatchCodes.Nodup
  codesMasked      : ∀ x ∈ c.dispatchCodes, x &&& c.statusMask = x
  noStateDistinct  : c.codeNoState ∉ c.dispatchCodes
  timeoutDistinct  : c.codeTimeout ∉ c.dispatchCodes
  noStateTimeout   : c.codeNoState ≠ c.codeTimeout
  maskFive         : popCount c.statusMask = 5
  positionsDistinct : c.fieldPositions.Nodup
  lenWidthPos      : 1 ≤ c.lenWidth
  addrWidthPos     : 1 ≤ c.addrWidth
  nullFits         : c.null < 2 ^ c.addrWidth
  errcntWidthPos   : 1 ≤ c.errcntWidth

/-- What the environment or the schedule may do next: the one place where the outside world
and the interleaving enter the model (20_memory.md R69, 43_controller_env.md R185).
A choice whose agent is not enabled is 'no step' (00_scope.md R10). -/
inductive Choice where
  /-- The sequencer moves (40_sequencer.md R120). -/
  | sequencer
  /-- The façade moves one micro-step (41_facade.md R150). -/
  | facade
  /-- The bus controller reports an event: the status byte it draws, the received byte of a
  read-data event, and what `DR` becomes in every other event (43_controller_env.md R186). This is
  the contract with no RefBus in it: RefBus keeps its state (log 27). -/
  | event (status data other : Byte)
  /-- The bus controller moves as RefBus (43_controller_env.md R192); `data` is received when
  RefBus has run out of bytes, `other` is what `DR` becomes where no byte is received. -/
  | refBus (data other : Byte)
  /-- A script's explicit `ev` line in the place of the event RefBus would report
  (43_controller_env.md R192), with the draws of `event`. -/
  | refBusReplaced (status data other : Byte)
  /-- The controller clears the stored STO bit after the STOP (43_controller_env.md R190:
  whether it does is its own business). -/
  | stopEmitted
  /-- The timer answers "elapsed" to a pending delay (43_controller_env.md R191). -/
  | tick
  /-- The host presents a command word (43_controller_env.md R194). -/
  | present (word : HostWord)
  /-- The host stores a byte of its storage, allocating it if it was not (R195). -/
  | hostStore (addr : Nat) (v : Byte)
  /-- The host frees a byte of its storage (R195). -/
  | hostFree (addr : Nat)
  /-- Reset (70_reset_and_hazards.md R240); the four values are what the registers hold whose
  value after reset the spec leaves unspecified (R241). -/
  | reset (sr dr br : Byte) (port : Bool)
  deriving DecidableEq, Repr, Inhabited

/-- FREE VALUE: the environment's choice number `n` when `State.pending` supplies none.
Nothing constrains it (log 5). -/
opaque Config.freeChoice : Nat → Choice

/-- OPEN parameter `BR_VALUE` (00_scope.md R6, 92_eei_decisions.md D33; log 2). -/
opaque Config.brValue : Byte

/-- OPEN parameter `EXTERNAL_PULLUPS` (00_scope.md R6, 92_eei_decisions.md D33; log 2). -/
opaque Config.externalPullups : Bool

/-- OPEN register addresses of CR, SR, DR, BR and PORT, numbered 0 to 4 (92_eei_decisions.md
D26; log 2). No rule uses one. -/
opaque Config.regAddr : Nat → Nat

/-- The reference profile P_REF (00_scope.md R6); its OPEN fields are the constants above. -/
def Cfg.pRef : Cfg where
  codeStart            := 0x08
  codeRepeatedStart    := 0x10
  codeWriteAddressAck  := 0x18
  codeWriteAddressNack := 0x20
  codeWriteDataAck     := 0x28
  codeWriteDataNack    := 0x30
  codeArbitrationLost  := 0x38
  codeReadAddressAck   := 0x40
  codeReadAddressNack  := 0x48
  codeReadDataAck      := 0x50
  codeReadDataNack     := 0x58
  codeBusError         := 0x00
  codeNoState          := 0xF8
  codeTimeout          := 0xFF
  statusMask           := 0xF8
  stateCapture         := .masked
  bitEn                := 2
  bitIe                := 0
  bitIf                := 7
  bitEa                := 6
  bitSta               := 5
  bitSto               := 4
  waitBudget           := 3
  waitDelay            := 1
  lenWidth             := 8
  addrWidth            := 16
  null                 := 0
  errcntWidth          := 8
  errcntMode           := .wrap
  brValue              := Config.brValue
  externalPullups      := Config.externalPullups
  crAddr               := Config.regAddr 0
  srAddr               := Config.regAddr 1
  drAddr               := Config.regAddr 2
  brAddr               := Config.regAddr 3
  portAddr             := Config.regAddr 4

end Sys2Proof
end

