-- ==== Sys2Proof/WellFormed.lean ====
section
/-! DEFINITION. Which terms of `Instr` are operations under a configuration: the operands at
the values the encodings admit (30_encoding.md R91, R92, R97). -/

namespace Sys2Proof

/-- The bits of a status byte that are not the code: everything outside `STATUS_MASK`
(30_encoding.md R91). -/
abbrev Cfg.IsIgnored (c : Cfg) (ign : Byte) : Prop := ign &&& c.statusMask = 0

/-- A code of 30_encoding.md R92's last row: a masked code that is none of the twelve. -/
abbrev Cfg.IsUnrecognized (c : Cfg) (code : Byte) : Prop :=
  code &&& c.statusMask = code ∧ code ∉ c.dispatchCodes

/-- Well-formedness of an operation under a configuration. A named reaction holds ignored bits
only; an unrecognized one also a code that is none of the twelve; the operands of `configure`
fit their widths. -/
abbrev Instr.WellFormed (c : Cfg) : Instr → Prop
  | .sStart ign => c.IsIgnored ign
  | .sRepeatedStart ign => c.IsIgnored ign
  | .sWriteAddressAck ign => c.IsIgnored ign
  | .sWriteDataAck ign => c.IsIgnored ign
  | .sReadAddressAck ign => c.IsIgnored ign
  | .sReadDataAck ign => c.IsIgnored ign
  | .sReadDataNack ign => c.IsIgnored ign
  | .sArbitrationLost ign => c.IsIgnored ign
  | .sWriteAddressNack ign => c.IsIgnored ign
  | .sReadAddressNack ign => c.IsIgnored ign
  | .sWriteDataNack ign => c.IsIgnored ign
  | .sBusError ign => c.IsIgnored ign
  | .sUnrecognized code ign => c.IsUnrecognized code ∧ c.IsIgnored ign
  | .hInit => True
  | .hBusy => True
  | .hConfigure hcBuf hcLen => hcBuf < 2 ^ c.addrWidth ∧ hcLen < 2 ^ c.lenWidth
  | .hStart => True
  | .hQueryResult => True
  | .hLastStatus => True
  | .hErrorCount => True

end Sys2Proof
end

