-- ==== Sys2Proof/Decode.lean ====
section
/-! DEFINITION. Decoding of the status byte and of the host command word, the encoder beside
it, and the bytes of the seven control words (30_encoding.md). Decoding is total on every raw
word and rejects by name. -/

namespace Sys2Proof

/-- `code := SR & STATUS_MASK` (30_encoding.md R91). -/
def statusCode (c : Cfg) (status : Byte) : Byte := status &&& c.statusMask

/-- The three bits of the status byte the mask clears (30_encoding.md R91). -/
def statusIgnored (c : Cfg) (status : Byte) : Byte := status &&& ~~~c.statusMask

/-- Status class decode: the first row of 30_encoding.md R92's table whose value equals the
code, else `S_UNRECOGNIZED`. Total on all bytes. -/
def decodeStatus (c : Cfg) (status : Byte) : Instr :=
  let code := statusCode c status
  let ign := statusIgnored c status
  if code = c.codeStart then .sStart ign
  else if code = c.codeRepeatedStart then .sRepeatedStart ign
  else if code = c.codeWriteAddressAck then .sWriteAddressAck ign
  else if code = c.codeWriteDataAck then .sWriteDataAck ign
  else if code = c.codeReadAddressAck then .sReadAddressAck ign
  else if code = c.codeReadDataAck then .sReadDataAck ign
  else if code = c.codeReadDataNack then .sReadDataNack ign
  else if code = c.codeArbitrationLost then .sArbitrationLost ign
  else if code = c.codeWriteAddressNack then .sWriteAddressNack ign
  else if code = c.codeReadAddressNack then .sReadAddressNack ign
  else if code = c.codeWriteDataNack then .sWriteDataNack ign
  else if code = c.codeBusError then .sBusError ign
  else .sUnrecognized code ign

/-- Host command decode by HC_OP (30_encoding.md R97); 7 is reserved (R100). -/
def decodeHost (c : Cfg) (w : HostWord) : Except DecodeError Instr :=
  if w.op = 0 then .ok .hInit
  else if w.op = 1 then .ok .hBusy
  else if w.op = 2 then
    if w.hcBuf < 2 ^ c.addrWidth ∧ w.hcLen < 2 ^ c.lenWidth then
      .ok (.hConfigure w.hcBuf w.hcLen)
    else .error .operandTooWide
  else if w.op = 3 then .ok .hStart
  else if w.op = 4 then .ok .hQueryResult
  else if w.op = 5 then .ok .hLastStatus
  else if w.op = 6 then .ok .hErrorCount
  else .error .reservedHostCommand

/-- The decoder: each format by its own table (30_encoding.md R90). -/
def decode (c : Cfg) : Raw → Except DecodeError Instr
  | .srb status => .ok (decodeStatus c status)
  | .hcmd word => decodeHost c word

/-- Whether a status byte's class is one of the two read-data classes
(43_controller_env.md R186, R188). -/
def isReadData (c : Cfg) (status : Byte) : Bool :=
  match decodeStatus c status with
  | .sReadDataAck _ => true
  | .sReadDataNack _ => true
  | _ => false

/-- The encoder, from the tables of 30_encoding.md R92 and R97: the code of a reaction with its
ignored bits, or the number of a command with its operands. -/
def encode (c : Cfg) : Instr → Raw
  | .sStart ign => .srb (c.codeStart ||| ign)
  | .sRepeatedStart ign => .srb (c.codeRepeatedStart ||| ign)
  | .sWriteAddressAck ign => .srb (c.codeWriteAddressAck ||| ign)
  | .sWriteDataAck ign => .srb (c.codeWriteDataAck ||| ign)
  | .sReadAddressAck ign => .srb (c.codeReadAddressAck ||| ign)
  | .sReadDataAck ign => .srb (c.codeReadDataAck ||| ign)
  | .sReadDataNack ign => .srb (c.codeReadDataNack ||| ign)
  | .sArbitrationLost ign => .srb (c.codeArbitrationLost ||| ign)
  | .sWriteAddressNack ign => .srb (c.codeWriteAddressNack ||| ign)
  | .sReadAddressNack ign => .srb (c.codeReadAddressNack ||| ign)
  | .sWriteDataNack ign => .srb (c.codeWriteDataNack ||| ign)
  | .sBusError ign => .srb (c.codeBusError ||| ign)
  | .sUnrecognized code ign => .srb (code ||| ign)
  | .hInit => .hcmd ⟨0, 0, 0⟩
  | .hBusy => .hcmd ⟨1, 0, 0⟩
  | .hConfigure hcBuf hcLen => .hcmd ⟨2, hcBuf, hcLen⟩
  | .hStart => .hcmd ⟨3, 0, 0⟩
  | .hQueryResult => .hcmd ⟨4, 0, 0⟩
  | .hLastStatus => .hcmd ⟨5, 0, 0⟩
  | .hErrorCount => .hcmd ⟨6, 0, 0⟩

/-- The fields of the seven command words (30_encoding.md R95), in the order
EN, IE, IFC, EA, STA, STO. -/
def CmdWord.fields : CmdWord → Crw
  | .start   => ⟨true, true,  true,  false, true,  false⟩
  | .send    => ⟨true, true,  true,  false, false, false⟩
  | .ack     => ⟨true, true,  true,  true,  false, false⟩
  | .nack    => ⟨true, true,  true,  false, false, false⟩
  | .stop    => ⟨true, false, true,  false, false, true⟩
  | .restart => ⟨true, true,  true,  false, true,  false⟩
  | .reset   => ⟨true, false, false, false, false, false⟩

/-- One field at its bit position. -/
def fieldBit (pos : Fin 8) (v : Bool) : Byte :=
  if v then (1 : Byte) <<< pos.val else 0

/-- The control word byte: the six fields at their positions, the other two bits 0
(30_encoding.md R94). -/
def crwByte (c : Cfg) (f : Crw) : Byte :=
  fieldBit c.bitEn f.en ||| fieldBit c.bitIe f.ie ||| fieldBit c.bitIf f.ifc
    ||| fieldBit c.bitEa f.ea ||| fieldBit c.bitSta f.sta ||| fieldBit c.bitSto f.sto

/-- The byte a command word writes to `CR`. -/
def CmdWord.byte (c : Cfg) (w : CmdWord) : Byte := crwByte c w.fields

/-- The raw word spec/opcode_table.json's numbering means by the number `w`. The table numbers two
formats in the same bits; this reads the numbers 0 to 6 as HC_OP and every other number as a
status byte (log 8). The table gives the operands of `configure` no bits, so they are zero. -/
def tableRaw (w : Nat) : Raw :=
  if w % 256 < 7 then .hcmd ⟨BitVec.ofNat 3 w, 0, 0⟩ else .srb (BitVec.ofNat 8 w)

/-- The operation the decoder reads from a word of spec/opcode_table.json, under the reference
profile, in which the table's numbers are given. -/
def decodeTableWord (_nbits w : Nat) : Option Instr :=
  match decode Cfg.pRef (tableRaw w) with
  | .ok i => some i
  | .error _ => none

end Sys2Proof
end

