-- ==== Sys2Proof/Machine/State.lean ====
section
/-! DEFINITION. The state of TWIM (10_state.md), its value after reset (R48), and the reasons a
step can stop (60_exceptions.md R225). -/

namespace Sys2Proof.Machine

/-- The stored fields of `CR` (10_state.md R27 to R33). `IFC` is not stored (R30). -/
structure Cr where
  en  : Bool
  ie  : Bool
  ea  : Bool
  sta : Bool
  sto : Bool
  deriving DecidableEq, Repr

/-- `FOP`, the host command in progress (10_state.md R40). -/
inductive Fop where
  | none
  | init
  | busy
  | configure
  | start
  | queryResult
  | lastStatus
  | errorCount
  deriving DecidableEq, Repr

/-- `FPC`, the label of the next micro-step (10_state.md R40). The labels C2, S2 and Q1 of
41_facade.md are the entry of the bounded wait, W0 of 42_recovery.md R170. -/
inductive Fpc where
  | I1
  | I2
  | I3
  | B1
  | C1
  | C3
  | C4
  | S1
  | S3
  | S4
  | S5
  | Q2
  | Q3
  | L1
  | E1
  | W0
  | W1
  | W2
  | T1
  | T2
  deriving DecidableEq, Repr

/-- `HR_VAL`, what a command returns (30_encoding.md R97). -/
inductive HrVal where
  | flag (b : Bool)
  | status (b : Byte)
  | count (n : Nat)
  deriving DecidableEq, Repr

/-- The observable events (00_scope.md R11). -/
inductive TraceEvent where
  /-- A `CR` write; the byte is the whole control word. -/
  | wrCR (word : Byte)
  | wrDR (b : Byte)
  | wrBR (b : Byte)
  | wrPORT (b : Bool)
  | bufRd (index : Nat) (b : Byte)
  | bufWr (index : Nat) (b : Byte)
  /-- A host command begins; its operands are `some (HC_BUF, HC_LEN)` for `configure`. -/
  | call (op : Fop) (operands : Option (Nat × Nat))
  /-- A host command returns. -/
  | ret (op : Fop) (result : Option HrVal)
  deriving DecidableEq, Repr

/-- The mode of RefBus (43_controller_env.md R192). -/
inductive RefBusMode where
  | idle
  | started
  | mt
  | mr
  deriving DecidableEq, Repr

/-- The reference environment of the test vectors (43_controller_env.md R192): its parameters
`rx` and `nackAt` and its internal state. The last byte written to `DR`, which is internal state of
it too, is `State.lastDr`. -/
structure RefBus where
  mode   : RefBusMode
  sent   : Nat
  rx     : List Byte
  nackAt : Option Nat
  deriving DecidableEq, Repr

/-- The buffer space (20_memory.md R60): the allocated bytes of the host, by address. -/
abbrev Memory := List Host.Cell

/-- The state of the machine: every piece 10_state.md R20 names, the host command port
(30_encoding.md R97), the trace (00_scope.md R11), what the environment's rules need
(43_controller_env.md), and the parameters, which no step changes. -/
structure State where
  /-- The parameters (00_scope.md R6). -/
  cfg     : Cfg
  /-- `BUF`, 10_state.md R21. -/
  buf     : Nat
  /-- `LEN`, 10_state.md R22. -/
  len     : Nat
  /-- `CUR`, 10_state.md R23. -/
  cur     : Nat
  /-- `OK`, 10_state.md R24. -/
  ok      : Bool
  /-- `STATE`, 10_state.md R25. -/
  state   : Byte
  /-- `ERRCNT`, 10_state.md R26. -/
  errcnt  : Nat
  /-- `CR`, 10_state.md R27. -/
  cr      : Cr
  /-- `SR`, 10_state.md R34. -/
  sr      : Byte
  /-- `DR`, 10_state.md R35. -/
  dr      : Byte
  /-- `BR`, 10_state.md R36. -/
  br      : Byte
  /-- `PORT`, 10_state.md R37. -/
  port    : Bool
  /-- `IF`, 10_state.md R30. -/
  iflag   : Bool
  /-- `ARMED`, 10_state.md R39. -/
  armed   : Bool
  /-- `FOP`, 10_state.md R40. -/
  fop     : Fop
  /-- `FPC`, 10_state.md R40. -/
  fpc     : Fpc
  /-- `WCNT`, 10_state.md R40. -/
  wcnt    : Nat
  /-- `A_BUF`, 10_state.md R40. -/
  aBuf    : Nat
  /-- `A_LEN`, 10_state.md R40. -/
  aLen    : Nat
  /-- `T_OK`, 10_state.md R40. -/
  tOk     : Bool
  /-- The command port: what the host has presented and the façade has not yet taken. -/
  hc      : Option HostWord
  /-- `HR_VAL`: the result presented last (30_encoding.md R97). -/
  hr      : Option HrVal
  /-- The buffer storage (20_memory.md R60). -/
  mem     : Memory
  /-- `TR`, oldest event first (00_scope.md R11). -/
  tr      : List TraceEvent
  /-- The timer's answer since it was last reset (43_controller_env.md R191). -/
  elapsed : Bool
  /-- The last byte TWIM wrote to `DR`, the byte handed to the controller (20_memory.md R66 b,
  43_controller_env.md R192). An event that moves `DR` leaves it. -/
  lastDr  : Byte
  /-- The reference environment (43_controller_env.md R192). -/
  refBus  : RefBus
  /-- The MODEL's own: the environment's choices not yet taken, the next one first. -/
  pending : List Choice
  /-- The MODEL's own: how many choices were drawn from `Config.freeChoice`. -/
  draws   : Nat
  deriving DecidableEq, Repr

/-- The model-level faults of 60_exceptions.md R225. Each stops the machine by name; none is a
behaviour of the hardware the spec describes, and each is SAFE: where the hardware would go on, a
claim becomes unprovable and none becomes wrongly provable. -/
inductive Fault where
  /-- Raised by a buffer access with an index at or beyond `LEN` (20_memory.md R61): by the
  reactions S_READ_DATA_ACK and S_READ_DATA_NACK. SAFE. -/
  | bufferBounds (i len : Nat)
  /-- Raised by the launch check, by an access to a byte that is not allocated, and by a host that
  writes or frees its buffer while busy, or an address outside the buffer space (20_memory.md R62,
  R61). SAFE. -/
  | storageInvalid
  deriving DecidableEq, Repr

/-- The reasons the machine refuses a step. Each is SAFE. -/
inductive Refusal where
  /-- Raised by `exec` for an operation that has no meaning yet. SAFE. -/
  | notModelled (mnemonic : String)
  /-- Raised by the façade for HC_OP = 7 (30_encoding.md R100, 60_exceptions.md R225). SAFE. -/
  | reservedHostCommand
  /-- Raised by the façade for a port word whose operands do not fit the port (30_encoding.md R97
  gives the widths); no such word can be presented. SAFE. -/
  | operandTooWide
  deriving DecidableEq, Repr

/-- What a step answers. -/
abbrev Result := Host.Outcome State Fault Refusal

/-- The state right after reset (10_state.md R48, 70_reset_and_hazards.md R240, R241) of a block with
the parameters `c`. `SR`, `DR`, `BR`, `PORT`, `FPC`, `A_BUF`, `A_LEN` and `T_OK` are unspecified
there; their values here are this model's (log 3). -/
def State.resetFor (c : Cfg) : State where
  cfg     := c
  buf     := c.null
  len     := 0
  cur     := 0
  ok      := false
  state   := c.codeNoState
  errcnt  := 0
  cr      := ⟨false, false, false, false, false⟩
  sr      := 0
  dr      := 0
  br      := 0
  port    := false
  iflag   := false
  armed   := false
  fop     := .none
  fpc     := .I1
  wcnt    := 0
  aBuf    := 0
  aLen    := 0
  tOk     := false
  hc      := none
  hr      := none
  mem     := []
  tr      := []
  elapsed := false
  lastDr  := 0
  refBus  := ⟨.idle, 0, [], none⟩
  pending := []
  draws   := 0

/-- The state right after reset, under the reference profile (00_scope.md R6). -/
def State.reset : State := State.resetFor Cfg.pRef

end Sys2Proof.Machine
end

