-- ==== Sys2Proof/Machine/Flags.lean ====
section
/-! DEFINITION. The one-bit conditions of TWIM (10_state.md R49) and the comparisons and
increments it computes (40_sequencer.md R146). -/

namespace Sys2Proof.Machine

/-- The busy flag: derived, the interrupt-enable bit itself (10_state.md R38). -/
def State.busy (s : State) : Bool := s.cr.ie

/-- The sequencer has a step exactly when `CR.IE = 1` and `IF = 1` (40_sequencer.md R120). -/
def State.seqEnabled (s : State) : Bool := s.cr.ie && s.iflag

/-- The controller can report an event (43_controller_env.md R186). -/
def State.eventEnabled (s : State) : Bool := s.cr.en && s.armed && !s.iflag

/-- `CUR < LEN`, unsigned (40_sequencer.md R122, R146 b). -/
def State.moreToSend (s : State) : Bool := decide (s.cur < s.len)

/-- `CUR < LEN - 1`, in the integers (40_sequencer.md R123, R146 c). -/
def State.moreToAck (s : State) : Bool := decide ((s.cur : Int) < (s.len : Int) - 1)

/-- `inc(ERRCNT)` (41_facade.md R155, 40_sequencer.md R146 f). -/
def incErrcnt (c : Cfg) (n : Nat) : Nat :=
  if n < 2 ^ c.errcntWidth - 1 then n + 1
  else
    match c.errcntMode with
    | .wrap => 0
    | .saturate => n

/-- `WCNT >= WAIT_BUDGET` (42_recovery.md R170, 40_sequencer.md R146 g). -/
def State.budgetUsed (s : State) : Bool := decide (s.cfg.waitBudget ≤ s.wcnt)

end Sys2Proof.Machine
end

