-- ==== Sys2Proof/Machine/Memory.lean ====
section
/-! DEFINITION. The buffer space as a list of cells in one canonical form (20_memory.md R60). -/

namespace Sys2Proof.Machine

/-- The canonical form: addresses strictly rise. An unlisted address reads as nothing, so no
listed cell equals what an unlisted address reads as. -/
abbrev Memory.wf (m : Memory) : Prop := m.Pairwise fun x y => x.1 < y.1

/-- What an address that is not listed reads as: nothing, since it is not allocated (log 11). -/
def Memory.unlisted : Option Byte := none

/-- The byte at an address, or nothing where no storage is allocated. -/
def Memory.read (m : Memory) (a : Nat) : Option Byte :=
  match m with
  | [] => Memory.unlisted
  | (b, v) :: rest => if a = b then some v else Memory.read rest a

/-- Store a byte, keeping the canonical form. -/
def Memory.write (m : Memory) (a : Nat) (v : Byte) : Memory :=
  match m with
  | [] => [(a, v)]
  | (b, w) :: rest =>
    if a < b then (a, v) :: (b, w) :: rest
    else if a = b then (a, v) :: rest
    else (b, w) :: Memory.write rest a v

/-- Free a byte. -/
def Memory.erase (m : Memory) (a : Nat) : Memory :=
  match m with
  | [] => []
  | (b, w) :: rest => if a = b then rest else (b, w) :: Memory.erase rest a

end Sys2Proof.Machine
end

