-- ==== Sys2Proof/Machine/Operands.lean ====
section
/-! DEFINITION. The operand forms of TWIM: the status value the failure handler records, the one
addressing mode `BUF + CUR`, and the command in progress (30_encoding.md R98, 40_sequencer.md
R148). -/

namespace Sys2Proof.Machine

/-- What the failure handler records of the status byte `code ||| ign` (40_sequencer.md R124):
the masked code or the whole byte. -/
def capturedStatus (c : Cfg) (code ign : Byte) : Byte :=
  match c.stateCapture with
  | .masked => code
  | .raw => code ||| ign

/-- The effective address of buffer byte `i`: `BUF + i`, in the integers (20_memory.md R61). -/
def State.bufAddr (s : State) (i : Nat) : Nat := s.buf + i

/-- An address of the buffer space (20_memory.md R60, R61). -/
def State.addrExists (s : State) (a : Nat) : Bool := decide (a < 2 ^ s.cfg.addrWidth)

/-- An address among the bytes `BUF + 0 .. BUF + LEN - 1` (20_memory.md R62). -/
def State.inBuffer (s : State) (a : Nat) : Bool := decide (s.buf ≤ a ∧ a < s.buf + s.len)

/-- Buffer byte `i` exists and is allocated. -/
def State.allocated (s : State) (i : Nat) : Bool :=
  s.addrExists (s.bufAddr i) && (s.mem.read (s.bufAddr i)).isSome

/-- Every byte `BUF + 0 .. BUF + LEN - 1` is allocated (20_memory.md R62). -/
def State.storageValid (s : State) : Bool := (List.range s.len).all s.allocated

/-- The command in progress, with the latched operands of `configure` (10_state.md R40). -/
def State.command (s : State) : Option Instr :=
  match s.fop with
  | .none => none
  | .init => some .hInit
  | .busy => some .hBusy
  | .configure => some (.hConfigure s.aBuf s.aLen)
  | .start => some .hStart
  | .queryResult => some .hQueryResult
  | .lastStatus => some .hLastStatus
  | .errorCount => some .hErrorCount

end Sys2Proof.Machine
end

