-- ==== Sys2Proof/Machine/Ops.lean ====
section
/-! DEFINITION. The named operations every meaning is written over: the trace, the register
writes, the buffer accesses, the sequencer's three sub-transitions, the failure handler they end
in, and the way a host command begins and returns. -/

namespace Sys2Proof.Machine

/-- Append an event to the trace (00_scope.md R11). -/
def State.log (e : TraceEvent) (s : State) : State := { s with tr := s.tr ++ [e] }

/-- A write of `CR`, and the controller's reaction to it (43_controller_env.md R187, 20_memory.md
R66): the five stored fields, `IF` cleared when `IFC = 1`, `ARMED` set when the word hands the
controller a phase to carry out. -/
def State.writeCR (w : CmdWord) (s : State) : State :=
  { s with
    cr    := ⟨w.fields.en, w.fields.ie, w.fields.ea, w.fields.sta, w.fields.sto⟩
    iflag := if w.fields.ifc then false else s.iflag
    armed := w.fields.en && w.fields.ifc && !w.fields.sto
    tr    := s.tr ++ [.wrCR (w.byte s.cfg)] }

/-- A write of `DR`, which hands the byte to the controller (20_memory.md R66 b). -/
def State.writeDR (b : Byte) (s : State) : State :=
  { s with dr := b, lastDr := b, tr := s.tr ++ [.wrDR b] }

/-- A write of `BR` (10_state.md R36). -/
def State.writeBR (b : Byte) (s : State) : State :=
  { s with br := b, tr := s.tr ++ [.wrBR b] }

/-- A write of `PORT` (10_state.md R37). -/
def State.writePORT (b : Bool) (s : State) : State :=
  { s with port := b, tr := s.tr ++ [.wrPORT b] }

/-- `BufRead(i)` (20_memory.md R61). -/
def State.bufRead (s : State) (i : Nat) : Except Fault (Byte × State) :=
  if i < s.len then
    if s.addrExists (s.bufAddr i) then
      match s.mem.read (s.bufAddr i) with
      | some b => .ok (b, s.log (.bufRd i b))
      | none => .error .storageInvalid
    else .error .storageInvalid
  else .error (.bufferBounds i s.len)

/-- `BufWrite(i, v)` (20_memory.md R61). -/
def State.bufWrite (s : State) (i : Nat) (v : Byte) : Except Fault State :=
  if i < s.len then
    if s.allocated i then
      .ok (State.log (.bufWr i v) { s with mem := s.mem.write (s.bufAddr i) v })
    else .error .storageInvalid
  else .error (.bufferBounds i s.len)

/-- Sub-transition `TX` (40_sequencer.md R122). -/
def tx (s : State) : Result :=
  if s.moreToSend then
    match s.bufRead s.cur with
    | .ok (b, s1) => .next (State.writeCR .send { s1.writeDR b with cur := s.cur + 1 })
    | .error f => .fault f
  else .next (State.writeCR .stop { s with ok := true })

/-- Sub-transition `RXARM` (40_sequencer.md R123). -/
def rxArm (s : State) : State :=
  State.writeCR (if s.moreToAck then .ack else .nack) s

/-- Sub-transition `TFAIL`, the one shared handler of every terminal failure
(40_sequencer.md R124): record the status, reset the controller. This is all the entry a failure
has: nothing is saved and nothing is vectored (60_exceptions.md R210, R216). -/
def tFail (code ign : Byte) (s : State) : State :=
  State.writeCR .reset { s with state := capturedStatus s.cfg code ign }

/-- Taking the interrupt (60_exceptions.md R216): it saves no state and changes no mode; it reads
`SR`, and the decode of that byte selects the reaction that runs (40_sequencer.md R121). Its return
(R217) restores nothing, so the reaction's own end is all there is of it. -/
def interruptEntry (s : State) : Instr := decodeStatus s.cfg s.sr

/-- A host command begins: the façade takes it from the port, `FOP` is set, `Call` is traced
(41_facade.md R150). -/
def beginCommand (op : Fop) (first : Fpc) (operands : Option (Nat × Nat)) (s : State) : State :=
  { s with fop := op, fpc := first, hc := none, tr := s.tr ++ [.call op operands] }

/-- A host command returns: the result is presented, `Ret` is traced, `FOP` is `None` again
(41_facade.md R150). -/
def finish (result : Option HrVal) (s : State) : State :=
  { s with fop := .none, hr := result, tr := s.tr ++ [.ret s.fop result] }

/-- One execution of a host command: its first micro-step when no command is in progress, its next
micro-step when it is itself in progress. While another command is in progress it is not accepted,
which is no step (41_facade.md R150: commands are never queued and never overlap). -/
def runCommand (op : Fop) (first : Fpc) (operands : Option (Nat × Nat))
    (micro : State → State) (s : State) : Result :=
  if s.fop = .none then .next (micro (beginCommand op first operands s))
  else if s.fop = op then .next (micro s)
  else .next s

end Sys2Proof.Machine
end

