-- ==== Sys2Proof/Machine/Recovery.lean ====
section
/-! DEFINITION. The recovery engine: the bounded wait and its timeout action (42_recovery.md). -/

namespace Sys2Proof.Machine

/-- W0 (42_recovery.md R170). -/
def waitW0 (s : State) : State := { s with wcnt := 0, fpc := .W1 }

/-- W1: the poll (42_recovery.md R170, R171). Going on to the delay resets the timer (R172). -/
def waitW1 (ret : Fpc) (s : State) : State :=
  if !s.busy then { s with fpc := ret }
  else if s.budgetUsed then { s with fpc := .T1 }
  else { s with fpc := .W2, elapsed := false }

/-- W2: the delay; no step until the timer has answered "elapsed" (42_recovery.md R172). -/
def waitW2 (s : State) : State :=
  if s.elapsed then { s with wcnt := s.wcnt + 1, fpc := .W1 } else s

/-- T1 (42_recovery.md R174). -/
def waitT1 (s : State) : State := { s with state := s.cfg.codeTimeout, fpc := .T2 }

/-- T2: the forced controller reset (42_recovery.md R174, R177). -/
def waitT2 (ret : Fpc) (s : State) : State := { State.writeCR .idle s with fpc := ret }

end Sys2Proof.Machine
end

