-- ==== Sys2Proof/Machine/Facade.lean ====
section
/-! DEFINITION. The seven host commands of the façade (41_facade.md R151 to R157), each as the
micro-step at the label `FPC` holds. A label that is not one of the command's is no step; no run
from reset holds one. -/

namespace Sys2Proof.Machine

/-- The micro-steps of `init` (41_facade.md R151). -/
def initMicro (s : State) : State :=
  match s.fpc with
  | .I1 => { s.writeBR s.cfg.brValue with fpc := .I2 }
  | .I2 => { s.writePORT (!s.cfg.externalPullups) with fpc := .I3 }
  | .I3 => finish none (State.writeCR .idle s)
  | _ => s

/-- `H_INIT` (41_facade.md R151). -/
def execHInit (s : State) : Result := runCommand .init .I1 none initMicro s

/-- The micro-step of `busy` (41_facade.md R152). -/
def busyMicro (s : State) : State :=
  match s.fpc with
  | .B1 => finish (some (.flag s.busy)) s
  | _ => s

/-- `H_BUSY` (41_facade.md R152). -/
def execHBusy (s : State) : Result := runCommand .busy .B1 none busyMicro s

/-- The micro-steps of `configure` (41_facade.md R153). -/
def configureMicro (hcBuf hcLen : Nat) (s : State) : State :=
  match s.fpc with
  | .C1 =>
    if hcBuf = s.cfg.null then finish none s
    else { s with aBuf := hcBuf, aLen := hcLen, fpc := .W0 }
  | .W0 => waitW0 s
  | .W1 => waitW1 .C3 s
  | .W2 => waitW2 s
  | .T1 => waitT1 s
  | .T2 => waitT2 .C3 s
  | .C3 => { s with buf := s.aBuf, fpc := .C4 }
  | .C4 => finish none { s with len := s.aLen }
  | _ => s

/-- `H_CONFIGURE` (41_facade.md R153). -/
def execHConfigure (hcBuf hcLen : Nat) (s : State) : Result :=
  runCommand .configure .C1 (some (hcBuf, hcLen)) (configureMicro hcBuf hcLen) s

/-- The micro-steps of `start` (41_facade.md R154). -/
def startMicro (s : State) : State :=
  match s.fpc with
  | .S1 => if s.buf = s.cfg.null then finish none s else { s with fpc := .W0 }
  | .W0 => waitW0 s
  | .W1 => waitW1 .S3 s
  | .W2 => waitW2 s
  | .T1 => waitT1 s
  | .T2 => waitT2 .S3 s
  | .S3 => { s with ok := false, fpc := .S4 }
  | .S4 => { s with state := s.cfg.codeNoState, fpc := .S5 }
  | .S5 => finish none (State.writeCR .start s)
  | _ => s

/-- `H_START` (41_facade.md R154). -/
def execHStart (s : State) : Result := runCommand .start .S1 none startMicro s

/-- The micro-steps of `queryResult` (41_facade.md R155); its label Q1 is W0. -/
def queryResultMicro (s : State) : State :=
  match s.fpc with
  | .W0 => waitW0 s
  | .W1 => waitW1 .Q2 s
  | .W2 => waitW2 s
  | .T1 => waitT1 s
  | .T2 => waitT2 .Q2 s
  | .Q2 => { s with tOk := s.ok, fpc := .Q3 }
  | .Q3 =>
    finish (some (.flag s.tOk))
      { s with errcnt := if s.tOk then s.errcnt else incErrcnt s.cfg s.errcnt }
  | _ => s

/-- `H_QUERYRESULT` (41_facade.md R155). -/
def execHQueryResult (s : State) : Result := runCommand .queryResult .W0 none queryResultMicro s

/-- The micro-step of `lastStatus` (41_facade.md R156). -/
def lastStatusMicro (s : State) : State :=
  match s.fpc with
  | .L1 => finish (some (.status s.state)) s
  | _ => s

/-- `H_LASTSTATUS` (41_facade.md R156). -/
def execHLastStatus (s : State) : Result := runCommand .lastStatus .L1 none lastStatusMicro s

/-- The micro-step of the error-counter read (41_facade.md R157). -/
def errorCountMicro (s : State) : State :=
  match s.fpc with
  | .E1 => finish (some (.count s.errcnt)) s
  | _ => s

/-- `H_ERRORCOUNT` (41_facade.md R157). -/
def execHErrorCount (s : State) : Result := runCommand .errorCount .E1 none errorCountMicro s

end Sys2Proof.Machine
end

