-- ==== Sys2Proof/Machine/Sequencer.lean ====
section
/-! DEFINITION. The thirteen status reactions of the sequencer (40_sequencer.md R125 to R137). -/

namespace Sys2Proof.Machine

/-- 40_sequencer.md R125. -/
def execSStart (_ign : Byte) (s : State) : Result := tx { s with cur := 0 }

/-- 40_sequencer.md R126. -/
def execSRepeatedStart (_ign : Byte) (s : State) : Result := tx { s with cur := 0 }

/-- 40_sequencer.md R127. -/
def execSWriteAddressAck (_ign : Byte) (s : State) : Result := tx s

/-- 40_sequencer.md R128. -/
def execSWriteDataAck (_ign : Byte) (s : State) : Result := tx s

/-- 40_sequencer.md R129. -/
def execSReadAddressAck (_ign : Byte) (s : State) : Result := .next (rxArm s)

/-- 40_sequencer.md R130. -/
def execSReadDataAck (_ign : Byte) (s : State) : Result :=
  match s.bufWrite s.cur s.dr with
  | .ok s1 => .next (rxArm { s1 with cur := s.cur + 1 })
  | .error f => .fault f

/-- 40_sequencer.md R131: `CUR` is not incremented. -/
def execSReadDataNack (_ign : Byte) (s : State) : Result :=
  match s.bufWrite s.cur s.dr with
  | .ok s1 => .next (State.writeCR .stop { s1 with ok := true })
  | .error f => .fault f

/-- 40_sequencer.md R132. -/
def execSArbitrationLost (_ign : Byte) (s : State) : Result := .next (State.writeCR .restart s)

/-- 40_sequencer.md R133. -/
def execSWriteAddressNack (ign : Byte) (s : State) : Result :=
  .next (tFail s.cfg.codeWriteAddressNack ign s)

/-- 40_sequencer.md R134. -/
def execSReadAddressNack (ign : Byte) (s : State) : Result :=
  .next (tFail s.cfg.codeReadAddressNack ign s)

/-- 40_sequencer.md R135. -/
def execSWriteDataNack (ign : Byte) (s : State) : Result :=
  .next (tFail s.cfg.codeWriteDataNack ign s)

/-- 40_sequencer.md R136. -/
def execSBusError (ign : Byte) (s : State) : Result :=
  .next (tFail s.cfg.codeBusError ign s)

/-- 40_sequencer.md R137. -/
def execSUnrecognized (code ign : Byte) (s : State) : Result := .next (tFail code ign s)

end Sys2Proof.Machine
end

