-- ==== Sys2Proof/Machine/Dispatch.lean ====
section
/-! DEFINITION. The meaning of every operation, one arm per constructor of `Instr`. -/

namespace Sys2Proof.Machine

def exec (i : Instr) (s : State) : Host.Outcome State Fault Refusal :=
  match i with
  | .sStart ign => Sys2Proof.Machine.execSStart ign s
  | .sRepeatedStart ign => Sys2Proof.Machine.execSRepeatedStart ign s
  | .sWriteAddressAck ign => Sys2Proof.Machine.execSWriteAddressAck ign s
  | .sWriteDataAck ign => Sys2Proof.Machine.execSWriteDataAck ign s
  | .sReadAddressAck ign => Sys2Proof.Machine.execSReadAddressAck ign s
  | .sReadDataAck ign => Sys2Proof.Machine.execSReadDataAck ign s
  | .sReadDataNack ign => Sys2Proof.Machine.execSReadDataNack ign s
  | .sArbitrationLost ign => Sys2Proof.Machine.execSArbitrationLost ign s
  | .sWriteAddressNack ign => Sys2Proof.Machine.execSWriteAddressNack ign s
  | .sReadAddressNack ign => Sys2Proof.Machine.execSReadAddressNack ign s
  | .sWriteDataNack ign => Sys2Proof.Machine.execSWriteDataNack ign s
  | .sBusError ign => Sys2Proof.Machine.execSBusError ign s
  | .sUnrecognized code ign => Sys2Proof.Machine.execSUnrecognized code ign s
  | .hInit => Sys2Proof.Machine.execHInit s
  | .hBusy => Sys2Proof.Machine.execHBusy s
  | .hConfigure hcBuf hcLen => Sys2Proof.Machine.execHConfigure hcBuf hcLen s
  | .hStart => Sys2Proof.Machine.execHStart s
  | .hQueryResult => Sys2Proof.Machine.execHQueryResult s
  | .hLastStatus => Sys2Proof.Machine.execHLastStatus s
  | .hErrorCount => Sys2Proof.Machine.execHErrorCount s

end Sys2Proof.Machine
end

