-- ==== Sys2Proof/Machine/Environment.lean ====
section
/-! DEFINITION. The environment's own moves (43_controller_env.md): the bus controller, RefBus,
the timer, the host, and reset. A move that is not enabled is no step. -/

namespace Sys2Proof.Machine

/-- Controller event step (43_controller_env.md R186, R188): `SR` takes the byte drawn; `DR` takes
the byte received in a read-data event and is unspecified (`other`) after any other. RefBus is no
part of this contract and keeps its state: DESIGN CHOICE, log 27. -/
def controllerEvent (status data other : Byte) (s : State) : State :=
  if s.eventEnabled then
    { s with
      sr    := status
      dr    := if isReadData s.cfg status then data else other
      iflag := true
      armed := false }
  else s

/-- The controller clears the stored STO bit (43_controller_env.md R190). -/
def stopEmitted (s : State) : State := { s with cr := { s.cr with sto := false } }

/-- The timer answers "elapsed" (43_controller_env.md R191); it keeps answering so until it is
reset. -/
def timerTick (s : State) : State := { s with elapsed := true }

/-- What RefBus reports next (43_controller_env.md R192): the code, the byte received if the class
receives one, and RefBus after it; nothing where its table has no row. The last `CR` write is read
off the stored fields: `STA` marks CMD_START and CMD_RESTART, `EA` marks CMD_ACK, and of the words
that arm the controller CMD_SEND and CMD_NACK, one byte under P_REF, are left. The last byte written
to `DR` is `State.lastDr`: an event may have moved `DR` since. -/
def refBusNext (spare : Byte) (s : State) : Option (Byte × Byte × RefBus) :=
  let r := s.refBus
  let received := r.rx.headD spare
  let read := s.lastDr.getLsbD 0
  if s.cr.sta then some (s.cfg.codeStart, spare, { r with mode := .started, sent := 0 })
  else if s.cr.ea then
    match r.mode with
    | .mr => some (s.cfg.codeReadDataAck, received, { r with rx := r.rx.tail })
    | .idle => none
    | .started => none
    | .mt => none
  else
    match r.mode with
    | .idle => none
    | .started =>
      some
        (if r.nackAt = some 0 then
          if read then s.cfg.codeReadAddressNack else s.cfg.codeWriteAddressNack
        else if read then s.cfg.codeReadAddressAck else s.cfg.codeWriteAddressAck,
        spare, { r with mode := if read then .mr else .mt, sent := 1 })
    | .mt =>
      some
        (if r.nackAt = some r.sent then s.cfg.codeWriteDataNack else s.cfg.codeWriteDataAck,
        spare, { r with sent := r.sent + 1 })
    | .mr => some (s.cfg.codeReadDataNack, received, { r with rx := r.rx.tail })

/-- The controller's event step with the draws RefBus fixes; after CMD_STOP or CMD_RESET RefBus
reports nothing and is idle (43_controller_env.md R192). -/
def refBusEvent (data other : Byte) (s : State) : State :=
  if s.eventEnabled then
    match refBusNext data s with
    | some (code, received, r) => { controllerEvent code received other s with refBus := r }
    | none => s
  else if s.busy then s
  else { s with refBus := { s.refBus with mode := .idle } }

/-- A script's explicit `ev` line replaces the event RefBus would report (43_controller_env.md
R192). What the rule leaves open is what RefBus's mode, count and list do then. DESIGN CHOICE, log
27: they move as the row of the last `CR` write moves them, for the byte went over the bus whatever
was reported of it; where the table has no row they stay. -/
def refBusReplaced (status data other : Byte) (s : State) : State :=
  if s.eventEnabled then
    { controllerEvent status data other s with
      refBus := ((refBusNext data s).map fun row => row.2.2).getD s.refBus }
  else s

/-- The host presents a command word, when no command is in progress and none is presented
(43_controller_env.md R194, 41_facade.md R150). -/
def hostPresent (w : HostWord) (s : State) : State :=
  if s.fop = .none ∧ s.hc = none then { s with hc := some w } else s

/-- The host may not touch an address: it is outside the buffer space, or inside the buffer of a
transfer in flight (20_memory.md R62, 43_controller_env.md R195). -/
def hostForbidden (a : Nat) (s : State) : Bool := !s.addrExists a || (s.busy && s.inBuffer a)

/-- The host stores a byte (43_controller_env.md R195, 60_exceptions.md R225). -/
def hostStore (a : Nat) (v : Byte) (s : State) : Result :=
  if hostForbidden a s then .fault .storageInvalid else .next { s with mem := s.mem.write a v }

/-- The host frees a byte (43_controller_env.md R195, 60_exceptions.md R225). -/
def hostFree (a : Nat) (s : State) : Result :=
  if hostForbidden a s then .fault .storageInvalid else .next { s with mem := s.mem.erase a }

/-- Reset (70_reset_and_hazards.md R240, R241): the block and façade registers and the controller
take the values of 10_state.md R48. The registers it leaves unspecified take the values drawn;
those of the façade that are never read before written keep what they held. The storage is the
host's and the parameters are fixed. -/
def resetMachine (sr dr br : Byte) (port : Bool) (s : State) : State :=
  { s with
    buf    := s.cfg.null
    len    := 0
    cur    := 0
    ok     := false
    state  := s.cfg.codeNoState
    errcnt := 0
    cr     := ⟨false, false, false, false, false⟩
    sr     := sr
    dr     := dr
    br     := br
    port   := port
    iflag  := false
    armed  := false
    fop    := .none
    wcnt   := 0
    hc     := none
    hr     := none
    tr     := [] }

end Sys2Proof.Machine
end

