-- ==== Sys2Proof/Machine/Agents.lean ====
section
/-! DEFINITION. One move of each agent (00_scope.md R3): where an operation is fetched from, and
what the environment does. -/

namespace Sys2Proof.Machine

/-- What a step answers when a command word is no operation. -/
def refusalOf : DecodeError → Refusal
  | .reservedHostCommand => .reservedHostCommand
  | .operandTooWide => .operandTooWide

/-- The sequencer moves (40_sequencer.md R120, R121; 60_exceptions.md R216, R217): the interrupt is
taken and one reaction runs. -/
def sequencerTurn (s : State) : Result :=
  if s.seqEnabled then exec (interruptEntry s) s else .next s

/-- The micro-step that launches a transfer is next: S5 of `start` (41_facade.md R154). -/
def launching (s : State) : Bool := decide (s.fop = .start ∧ s.fpc = .S5)

/-- The façade moves one micro-step (41_facade.md R150): of the command in progress, or the first
of the command presented. A launch whose storage is not allocated is refused (20_memory.md R62). -/
def facadeTurn (s : State) : Result :=
  match s.command with
  | some i => if launching s && !s.storageValid then .fault .storageInvalid else exec i s
  | none =>
    match s.hc with
    | none => .next s
    | some w =>
      match decode s.cfg (.hcmd w) with
      | .ok i => exec i s
      | .error e => .refused (refusalOf e)

/-- One move of the agent the choice names. -/
def agentTurn (c : Choice) (s : State) : Result :=
  match c with
  | .sequencer => sequencerTurn s
  | .facade => facadeTurn s
  | .event status data other => .next (controllerEvent status data other s)
  | .refBus data other => .next (refBusEvent data other s)
  | .refBusReplaced status data other => .next (refBusReplaced status data other s)
  | .stopEmitted => .next (stopEmitted s)
  | .tick => .next (timerTick s)
  | .present w => .next (hostPresent w s)
  | .hostStore a v => hostStore a v s
  | .hostFree a => hostFree a s
  | .reset sr dr br port => .next (resetMachine sr dr br port s)

/-- The state in which the next step reacts to a status byte: the event is pending and enabled
(40_sequencer.md R120) and the sequencer is the agent chosen. -/
def withStatus (status : Byte) (s : State) : State :=
  { s with
    cr      := { s.cr with ie := true }
    sr      := status
    iflag   := true
    pending := .sequencer :: s.pending }

/-- The state in which the next step takes a command: the word is presented, no command is in
progress (41_facade.md R150), and the façade is the agent chosen. -/
def withCommand (w : HostWord) (s : State) : State :=
  { s with
    fop     := .none
    hc      := some w
    pending := .facade :: s.pending }

/-- The state in which the next step fetches a raw word. -/
def withRaw (r : Raw) (s : State) : State :=
  match r with
  | .srb status => withStatus status s
  | .hcmd w => withCommand w s

end Sys2Proof.Machine
end

