-- ==== Sys2Proof/Machine/Step.lean ====
section
/-! DEFINITION. One step of the machine: the next agent's move (20_memory.md R69). -/

namespace Sys2Proof.Machine

/-- One step: the first pending choice, or a free one where none is pending (log 5). -/
def step (s : State) : Host.Outcome State Fault Refusal :=
  match s.pending with
  | c :: rest => agentTurn c { s with pending := rest }
  | [] => agentTurn (Config.freeChoice s.draws) { s with draws := s.draws + 1 }

/-- The state in which the very next step fetches and runs the operation a word of
spec/opcode_table.json means (log 7, log 8). -/
def State.withFetchWord (s : State) (_nbits w : Nat) : State := withRaw (tableRaw w) s

end Sys2Proof.Machine
end

