-- ==== Sys2Proof/Safety.lean ====
section
/-! DEFINITION. What the claims about TWIM are stated in: runs of one operation, protocol-ordered
schedules, reachable states, the end of a run, and the invariant of the machine. -/

namespace Sys2Proof.Machine

/-- Execute one operation `k` times, stopping at the first stop: for a host command, `k` of its
micro-steps with no other agent between them. -/
def execTimes (i : Instr) : Nat → State → Result
  | 0, s => .next s
  | k + 1, s =>
    match exec i s with
    | .next t => execTimes i k t
    | .fault f => .fault f
    | .refused r => .refused r

/-- The moves of a list of choices, in order, stopping at the first stop. -/
def turns : List Choice → State → Result
  | [], s => .next s
  | c :: rest, s =>
    match agentTurn c s with
    | .next t => turns rest t
    | .fault f => .fault f
    | .refused r => .refused r

/-- The states a run can reach: the reset state under valid parameters, and what any move of any
agent makes of a reachable state. -/
inductive Reachable : State → Prop where
  | reset (c : Cfg) (valid : c.Valid) : Reachable (State.resetFor c)
  | move (c : Choice) (s t : State) (reached : Reachable s) (moved : agentTurn c s = .next t) :
    Reachable t

/-- A run is over: the host has no further command to issue, neither presented nor among the
choices still pending, and no command and no transfer is in progress (43_controller_env.md R196;
that the pending choices are all the host has to issue is the model's choice, log 28). -/
def Final (s : State) : Prop :=
  s.hc = none ∧ (∀ w, Choice.present w ∉ s.pending) ∧ s.fop = .none ∧ s.busy = false

/-- The controller is carrying out a phase of a transfer in flight and has not reported it. -/
def InFlight (s : State) : Prop :=
  s.cr.en = true ∧ s.cr.ie = true ∧ s.armed = true ∧ s.iflag = false

/-- The buffer holds the bytes `bs`, one for each index below `LEN`. -/
def BufferHolds (s : State) (bs : List Byte) : Prop :=
  bs.length = s.len ∧
    ∀ (i : Nat) (b : Byte), bs[i]? = some b →
      s.addrExists (s.bufAddr i) = true ∧ s.mem.read (s.bufAddr i) = some b

/-- Bus event number `k` of a write transfer in protocol order (40_sequencer.md R144): START, the
write address accepted, then a byte accepted each time. -/
def writeCode (c : Cfg) (k : Nat) : Byte :=
  if k = 0 then c.codeStart else if k = 1 then c.codeWriteAddressAck else c.codeWriteDataAck

/-- Bus event number `k` of a read transfer of length `len` in protocol order (40_sequencer.md
R144): START, the read address accepted, bytes received under ACK, the last one under NACK. -/
def readCode (c : Cfg) (len k : Nat) : Byte :=
  if k = 0 then c.codeStart else if k = 1 then c.codeReadAddressAck
  else if k < len then c.codeReadDataAck else c.codeReadDataNack

/-- What the environment draws at one bus event beside the code: the ignored bits of the status
byte, the byte received, and what `DR` becomes where none is. -/
structure Draw where
  ign   : Byte
  data  : Byte
  other : Byte
  deriving DecidableEq, Repr

/-- A bus event and the sequencer's reaction to it, for each draw, the codes by number from `k`. -/
def eventTurns (code : Nat → Byte) : Nat → List Draw → List Choice
  | _, [] => []
  | k, d :: rest =>
    .event (code k ||| d.ign) d.data d.other :: .sequencer :: eventTurns code (k + 1) rest

/-- What a write transfer does with the buffer bytes `bs` from index `k` on: each is read in index
order and handed to the controller (40_sequencer.md R144). -/
def sendTrace (c : Cfg) : Nat → List Byte → List TraceEvent
  | _, [] => []
  | k, b :: rest =>
    .bufRd k b :: .wrDR b :: .wrCR (CmdWord.send.byte c) :: sendTrace c (k + 1) rest

/-- What a read transfer of length `len` does with the received bytes from index `k` on: each is
stored in index order, and the next is acknowledged unless it is the last; after the last comes
STOP (40_sequencer.md R144). -/
def receiveTrace (c : Cfg) (len : Nat) : Nat → List Byte → List TraceEvent
  | _, [] => []
  | k, [b] => [.bufWr k b, .wrCR (CmdWord.stop.byte c)]
  | k, b :: rest =>
    .bufWr k b :: .wrCR ((if k + 2 < len then CmdWord.ack else CmdWord.nack).byte c)
      :: receiveTrace c len (k + 1) rest

/-- One iteration of the bounded wait's loop whose delay ends: W1, the timer's answer, W2. -/
def waitRound : List Choice := [.facade, .tick, .facade]

/-- `queryResult` over a bus that never reports an event (42_recovery.md R170): W0, as many rounds
as the budget allows, the last poll, T1, T2, Q2, Q3. -/
def timeoutTurns (budget : Nat) : List Choice :=
  .facade :: ((List.replicate budget waitRound).flatten
    ++ [.facade, .facade, .facade, .facade, .facade])

/-- The thirteen status reactions (00_scope.md R2 a). -/
def isReaction : Instr → Bool
  | .sStart _ | .sRepeatedStart _ | .sWriteAddressAck _ | .sWriteDataAck _ | .sReadAddressAck _
  | .sReadDataAck _ | .sReadDataNack _ | .sArbitrationLost _ | .sWriteAddressNack _
  | .sReadAddressNack _ | .sWriteDataNack _ | .sBusError _ | .sUnrecognized _ _ => true
  | .hInit | .hBusy | .hConfigure _ _ | .hStart | .hQueryResult | .hLastStatus
  | .hErrorCount => false

/-- The two reactions that store a received byte (40_sequencer.md R148). -/
def isStore : Instr → Bool
  | .sReadDataAck _ | .sReadDataNack _ => true
  | .sStart _ | .sRepeatedStart _ | .sWriteAddressAck _ | .sWriteDataAck _ | .sReadAddressAck _
  | .sArbitrationLost _ | .sWriteAddressNack _ | .sReadAddressNack _ | .sWriteDataNack _
  | .sBusError _ | .sUnrecognized _ _ | .hInit | .hBusy | .hConfigure _ _ | .hStart
  | .hQueryResult | .hLastStatus | .hErrorCount => false

/-- The reactions that complete the transfer in a state: nothing is left to send, no byte is to be
sent at all, or the final byte of a read has its place (40_sequencer.md R122, R131, R142). -/
def Completes (ign : Byte) (s : State) (i : Instr) : Prop :=
  (s.len ≤ s.cur ∧ i ∈ [Instr.sWriteAddressAck ign, .sWriteDataAck ign]) ∨
    (s.len = 0 ∧ i ∈ [Instr.sStart ign, .sRepeatedStart ign]) ∨
    (s.cur < s.len ∧ s.allocated s.cur = true ∧ i = .sReadDataNack ign)

/-- The moves on the interrupt's side: the sequencer's, and those of the bus controller in each of
its forms (20_memory.md R69). -/
def isInterruptSide : Choice → Bool
  | .sequencer | .event _ _ _ | .refBus _ _ | .refBusReplaced _ _ _ | .stopEmitted => true
  | .facade | .tick | .present _ | .hostStore _ _ | .hostFree _ | .reset _ _ _ _ => false

/-- The choices in which the bus controller reports an event: the unconstrained contract, RefBus, and
a script's replacement (43_controller_env.md R186, R192). -/
def isReport : Choice → Bool
  | .event _ _ _ | .refBus _ _ | .refBusReplaced _ _ _ => true
  | .sequencer | .facade | .stopEmitted | .tick | .present _ | .hostStore _ _ | .hostFree _
  | .reset _ _ _ _ => false

/-- The command that an operation is the meaning of. -/
def commandOf : Instr → Fop
  | .hInit => .init
  | .hBusy => .busy
  | .hConfigure _ _ => .configure
  | .hStart => .start
  | .hQueryResult => .queryResult
  | .hLastStatus => .lastStatus
  | .hErrorCount => .errorCount
  | .sStart _ | .sRepeatedStart _ | .sWriteAddressAck _ | .sWriteDataAck _ | .sReadAddressAck _
  | .sReadDataAck _ | .sReadDataNack _ | .sArbitrationLost _ | .sWriteAddressNack _
  | .sReadAddressNack _ | .sWriteDataNack _ | .sBusError _ | .sUnrecognized _ _ => .none

/-- The three commands that wait, and the label each goes on at (40_sequencer.md R147 c). -/
def waiters (hcBuf hcLen : Nat) : List (Fop × Instr × Fpc) :=
  [(.configure, .hConfigure hcBuf hcLen, .C3), (.start, .hStart, .S3),
   (.queryResult, .hQueryResult, .Q2)]

/-- The five reactions that end in the shared failure handler, each with its code
(40_sequencer.md R133 to R137). -/
def failures (c : Cfg) (code ign : Byte) : List (Instr × Byte) :=
  [(.sWriteAddressNack ign, c.codeWriteAddressNack), (.sReadAddressNack ign, c.codeReadAddressNack),
   (.sWriteDataNack ign, c.codeWriteDataNack), (.sBusError ign, c.codeBusError),
   (.sUnrecognized code ign, code)]

/-- The labels of the bounded wait (42_recovery.md R170). -/
def Fpc.isWait : Fpc → Bool
  | .W0 | .W1 | .W2 | .T1 | .T2 => true
  | .I1 | .I2 | .I3 | .B1 | .C1 | .C3 | .C4 | .S1 | .S3 | .S4 | .S5 | .Q2 | .Q3 | .L1 | .E1 => false

/-- The labels that follow the bounded wait in its three callers (40_sequencer.md R147 c). -/
def Fpc.isAfterWait : Fpc → Bool
  | .C3 | .C4 | .S3 | .S4 | .S5 | .Q2 | .Q3 => true
  | .I1 | .I2 | .I3 | .B1 | .C1 | .S1 | .L1 | .E1 | .W0 | .W1 | .W2 | .T1 | .T2 => false

/-- The labels a command in progress can be at between two moves. -/
def labelOf : Fop → Fpc → Bool
  | .none, _ => true
  | .init, l => l = .I2 || l = .I3
  | .busy, _ => false
  | .configure, l => l.isWait || l = .C3 || l = .C4
  | .start, l => l.isWait || l = .S3 || l = .S4 || l = .S5
  | .queryResult, l => l.isWait || l = .Q2 || l = .Q3
  | .lastStatus, _ => false
  | .errorCount, _ => false

/-- The quantities fit their widths and the memory is canonical (00_scope.md R6, 20_memory.md R60,
40_sequencer.md R146). -/
structure Fits (s : State) : Prop where
  cfgValid : s.cfg.Valid
  buf      : s.buf < 2 ^ s.cfg.addrWidth
  len      : s.len < 2 ^ s.cfg.lenWidth
  cur      : s.cur < 2 ^ s.cfg.lenWidth
  errcnt   : s.errcnt < 2 ^ s.cfg.errcntWidth
  wcnt     : s.wcnt ≤ s.cfg.waitBudget
  memWf    : Memory.wf s.mem
  memFits  : ∀ a, (s.mem.read a).isSome = true → s.addrExists a = true

/-- Where the façade stands, and what it may rely on there (41_facade.md R153, R154, 42_recovery.md
R175). -/
structure FacadeInv (s : State) : Prop where
  label        : labelOf s.fop s.fpc = true
  delaying     : s.fop ≠ .none → s.fpc = .W2 → s.wcnt < s.cfg.waitBudget
  latched      : s.fop = .configure →
                   s.aBuf < 2 ^ s.cfg.addrWidth ∧ s.aLen < 2 ^ s.cfg.lenWidth ∧ s.aBuf ≠ s.cfg.null
  configured   : s.fop = .start → s.buf ≠ s.cfg.null
  idle         : s.fop ≠ .none → s.fpc.isAfterWait = true → s.cr.ie = false
  outcomeReset : s.fop = .start → (s.fpc = .S4 ∨ s.fpc = .S5) → s.ok = false

/-- What holds of a transfer in flight (10_state.md R44, R45, 20_memory.md R62, 43_controller_env.md
R187, 60_exceptions.md R215). -/
structure BusyInv (s : State) : Prop where
  notOk      : s.cr.ie = true → s.ok = false
  configured : s.cr.ie = true → s.buf ≠ s.cfg.null
  storage    : s.cr.ie = true → s.storageValid = true
  pendingEvent : s.cr.ie = true → s.armed = true ∨ s.iflag = true
  enabled    : s.cr.ie = true → s.cr.en = true
  oneEvent   : s.armed = true → s.iflag = false

/-- The invariant of the machine. -/
structure Inv (s : State) : Prop where
  fits   : Fits s
  facade : FacadeInv s
  busy   : BusyInv s

end Sys2Proof.Machine
end

