-- ==== Sys2Proof/Certificates/Slice0/Obligations.lean ====
section
/-! DEFINITION. The statements about TWIM that the provers settle. Each holds for every admissible
configuration, since the configuration is a field of the state (log 1). One move of one agent is one
step, and a run is a list of choices (log 5); one execution of a host command is one micro-step of it
(log 6): both are the model's forms of 20_memory.md R69 and 41_facade.md R150. -/

open Sys2Proof Sys2Proof.Machine

/-! ### Encodings (30_encoding.md) -/

/-- Decoding the encoding of any well-formed operation gives that operation back, with every
operand at every value the encoding admits (30_encoding.md R91, R92, R97). -/
def Obligations.DecodeOfEncodeIsTheOperation : Prop :=
  ∀ (c : Cfg) (i : Instr), c.Valid → i.WellFormed c → decode c (encode c i) = .ok i

/-- Every status byte decodes to a well-formed reaction whose encoding is that very byte: the
decode is total on bytes and drops no bit (30_encoding.md R91, R92, R99). -/
def Obligations.StatusDecodeIsTotalAndLosesNoBit : Prop :=
  ∀ (c : Cfg) (b : Byte), ∃ i : Instr, decode c (.srb b) = .ok i ∧ isReaction i = true ∧
    i.WellFormed c ∧ encode c i = .srb b

/-- A command word decodes exactly when HC_OP is 0 to 6 and the operands of `configure` fit; `configure`
with operands that do not fit is refused by name (the model's choice, log 10: no such word can be
presented), and HC_OP 7 is refused by name whatever its operands (30_encoding.md R97, R100). -/
def Obligations.HostCommandNumbersDecode : Prop :=
  ∀ (c : Cfg) (b l : Nat),
    decode c (.hcmd ⟨0, b, l⟩) = .ok .hInit ∧ decode c (.hcmd ⟨1, b, l⟩) = .ok .hBusy ∧
    (b < 2 ^ c.addrWidth → l < 2 ^ c.lenWidth →
      decode c (.hcmd ⟨2, b, l⟩) = .ok (.hConfigure b l)) ∧
    (2 ^ c.addrWidth ≤ b ∨ 2 ^ c.lenWidth ≤ l →
      decode c (.hcmd ⟨2, b, l⟩) = .error .operandTooWide) ∧
    decode c (.hcmd ⟨3, b, l⟩) = .ok .hStart ∧ decode c (.hcmd ⟨4, b, l⟩) = .ok .hQueryResult ∧
    decode c (.hcmd ⟨5, b, l⟩) = .ok .hLastStatus ∧
    decode c (.hcmd ⟨6, b, l⟩) = .ok .hErrorCount ∧
    decode c (.hcmd ⟨7, b, l⟩) = .error .reservedHostCommand

/-- Words written out from the reference profile's table decode to their operations, one with
ignored bits set and one that no row names (30_encoding.md R92; vectors V1 to V17). -/
def Obligations.WrittenOutWordsDecode : Prop :=
  decode Cfg.pRef (.srb 0x08) = .ok (.sStart 0) ∧
  decode Cfg.pRef (.srb 0x2B) = .ok (.sWriteDataAck 3) ∧
  decode Cfg.pRef (.srb 0x5F) = .ok (.sReadDataNack 7) ∧
  decode Cfg.pRef (.srb 0x07) = .ok (.sBusError 7) ∧
  decode Cfg.pRef (.srb 0xFF) = .ok (.sUnrecognized 0xF8 7) ∧
  decode Cfg.pRef (.hcmd ⟨2, 0x0100, 3⟩) = .ok (.hConfigure 0x0100 3)

/-- A control word holds each of its six fields at that field's position, and every other bit is 0;
under the reference profile its bits from 0 to 7 are IE, 0, EN, 0, STO, STA, EA, IFC (30_encoding.md
R94, the spec's decision D5). -/
def Obligations.ControlWordHoldsItsFields : Prop :=
  ∀ (c : Cfg) (f : Crw), c.Valid →
    (crwByte c f).getLsbD c.bitEn = f.en ∧ (crwByte c f).getLsbD c.bitIe = f.ie ∧
    (crwByte c f).getLsbD c.bitIf = f.ifc ∧ (crwByte c f).getLsbD c.bitEa = f.ea ∧
    (crwByte c f).getLsbD c.bitSta = f.sta ∧ (crwByte c f).getLsbD c.bitSto = f.sto ∧
    (∀ k : Fin 8, k ∉ c.fieldPositions → (crwByte c f).getLsbD k = false) ∧
    (List.range 8).map (crwByte Cfg.pRef f).getLsbD =
      [f.ie, false, f.en, false, f.sto, f.sta, f.ea, f.ifc]

/-- The six fields of the seven command words, and the bytes they are under the reference profile
(30_encoding.md R95; vectors V19 to V25). -/
def Obligations.CommandWordTable : Prop :=
  CmdWord.start.fields = ⟨true, true, true, false, true, false⟩ ∧
  CmdWord.send.fields = ⟨true, true, true, false, false, false⟩ ∧
  CmdWord.ack.fields = ⟨true, true, true, true, false, false⟩ ∧
  CmdWord.nack.fields = ⟨true, true, true, false, false, false⟩ ∧
  CmdWord.stop.fields = ⟨true, false, true, false, false, true⟩ ∧
  CmdWord.restart.fields = ⟨true, true, true, false, true, false⟩ ∧
  CmdWord.reset.fields = ⟨true, false, false, false, false, false⟩ ∧
  CmdWord.idle = CmdWord.reset ∧
  [CmdWord.start, .send, .ack, .nack, .stop, .restart, .reset].map (CmdWord.byte Cfg.pRef) =
    [0xA5, 0x85, 0xC5, 0x85, 0x94, 0xA5, 0x04]

/-! ### The sequencer (40_sequencer.md): results, each with its whole frame -/

/-- START and REPEATED_START with a byte to send: the cursor is reset, buffer byte 0 goes to the
data register, `CMD_SEND` is written, nothing else changes (40_sequencer.md R122, R125, R126). -/
def Obligations.StartReactionsSendByteZero : Prop :=
  ∀ (ign b : Byte) (s : State), 0 < s.len → s.addrExists (s.bufAddr 0) = true →
    s.mem.read (s.bufAddr 0) = some b →
    ∀ i ∈ [Instr.sStart ign, .sRepeatedStart ign],
      exec i s = .next { s with
        cur := 1, dr := b, lastDr := b, cr := ⟨true, true, false, false, false⟩, iflag := false,
        armed := true, tr := s.tr ++ [.bufRd 0 b, .wrDR b, .wrCR (CmdWord.send.byte s.cfg)] }

/-- The write address or a byte was accepted and a byte is left: it goes to the data register, the
cursor advances by one, `CMD_SEND` is written (40_sequencer.md R122, R127, R128). -/
def Obligations.WriteAcknowledgeSendsTheNextByte : Prop :=
  ∀ (ign b : Byte) (s : State), s.cur < s.len → s.addrExists (s.bufAddr s.cur) = true →
    s.mem.read (s.bufAddr s.cur) = some b →
    ∀ i ∈ [Instr.sWriteAddressAck ign, .sWriteDataAck ign],
      exec i s = .next { s with
        cur := s.cur + 1, dr := b, lastDr := b, cr := ⟨true, true, false, false, false⟩,
        iflag := false, armed := true,
        tr := s.tr ++ [.bufRd s.cur b, .wrDR b, .wrCR (CmdWord.send.byte s.cfg)] }

/-- Nothing left to send: the acknowledge reactions with `CUR` at or beyond `LEN` leave the cursor, the
START reactions with `LEN = 0` reset it, and all four record success and write `CMD_STOP`, with no
buffer access; `STATE` stays (40_sequencer.md R122, R125 to R128, R142). -/
def Obligations.NothingLeftToSendCompletes : Prop :=
  ∀ (ign : Byte) (s : State),
    (s.len ≤ s.cur → ∀ i ∈ [Instr.sWriteAddressAck ign, .sWriteDataAck ign],
      exec i s = .next { s with
        ok := true, cr := ⟨true, false, false, false, true⟩, iflag := false, armed := false,
        tr := s.tr ++ [.wrCR (CmdWord.stop.byte s.cfg)] }) ∧
    (s.len = 0 → ∀ i ∈ [Instr.sStart ign, .sRepeatedStart ign],
      exec i s = .next { s with
        cur := 0, ok := true, cr := ⟨true, false, false, false, true⟩, iflag := false,
        armed := false, tr := s.tr ++ [.wrCR (CmdWord.stop.byte s.cfg)] })

/-- The read address was accepted: `CMD_ACK` exactly when `CUR < LEN - 1` in the integers, else
`CMD_NACK`; no byte is stored (40_sequencer.md R123, R129). -/
def Obligations.ReadAddressAckArmsTheAcknowledge : Prop :=
  ∀ (ign : Byte) (s : State),
    ((s.cur : Int) < (s.len : Int) - 1 →
      exec (.sReadAddressAck ign) s = .next { s with
        cr := ⟨true, true, true, false, false⟩, iflag := false, armed := true,
        tr := s.tr ++ [.wrCR (CmdWord.ack.byte s.cfg)] }) ∧
    (¬ (s.cur : Int) < (s.len : Int) - 1 →
      exec (.sReadAddressAck ign) s = .next { s with
        cr := ⟨true, true, false, false, false⟩, iflag := false, armed := true,
        tr := s.tr ++ [.wrCR (CmdWord.nack.byte s.cfg)] })

/-- A byte was received under ACK: it is stored at the cursor, the cursor advances, and the next
byte is acknowledged exactly when the advanced cursor is below `LEN - 1` (40_sequencer.md R123,
R130). -/
def Obligations.ReadDataAckStoresAndArms : Prop :=
  ∀ (ign : Byte) (s : State), s.cur < s.len → s.allocated s.cur = true →
    (((s.cur + 1 : Nat) : Int) < (s.len : Int) - 1 →
      exec (.sReadDataAck ign) s = .next { s with
        mem := s.mem.write (s.bufAddr s.cur) s.dr, cur := s.cur + 1,
        cr := ⟨true, true, true, false, false⟩, iflag := false, armed := true,
        tr := s.tr ++ [.bufWr s.cur s.dr, .wrCR (CmdWord.ack.byte s.cfg)] }) ∧
    (¬ ((s.cur + 1 : Nat) : Int) < (s.len : Int) - 1 →
      exec (.sReadDataAck ign) s = .next { s with
        mem := s.mem.write (s.bufAddr s.cur) s.dr, cur := s.cur + 1,
        cr := ⟨true, true, false, false, false⟩, iflag := false, armed := true,
        tr := s.tr ++ [.bufWr s.cur s.dr, .wrCR (CmdWord.nack.byte s.cfg)] })

/-- The final byte was received: it is stored at the cursor, the cursor stays, success, `CMD_STOP`
(40_sequencer.md R131). -/
def Obligations.ReadDataNackStoresTheFinalByte : Prop :=
  ∀ (ign : Byte) (s : State), s.cur < s.len → s.allocated s.cur = true →
    exec (.sReadDataNack ign) s = .next { s with
      mem := s.mem.write (s.bufAddr s.cur) s.dr, ok := true,
      cr := ⟨true, false, false, false, true⟩, iflag := false, armed := false,
      tr := s.tr ++ [.bufWr s.cur s.dr, .wrCR (CmdWord.stop.byte s.cfg)] }

/-- A received byte that has no place in the buffer stops the machine with `BufferBounds`
(20_memory.md R61, 40_sequencer.md R130, R131). -/
def Obligations.ReadReactionsFaultBeyondTheBuffer : Prop :=
  ∀ (ign : Byte) (s : State), s.len ≤ s.cur →
    ∀ i ∈ [Instr.sReadDataAck ign, .sReadDataNack ign],
      exec i s = .fault (.bufferBounds s.cur s.len)

/-- An access to a buffer byte that is not allocated, or whose address does not exist, stops the
machine with `StorageInvalid`: the byte at the cursor, or byte 0 at the START reactions
(20_memory.md R62; how it shows at an access is the model's choice, log 11). -/
def Obligations.AccessToUnallocatedStorageFaults : Prop :=
  ∀ (ign : Byte) (s : State),
    (s.cur < s.len → s.allocated s.cur = false →
      ∀ i ∈ [Instr.sWriteAddressAck ign, .sWriteDataAck ign, .sReadDataAck ign,
          .sReadDataNack ign],
        exec i s = .fault .storageInvalid) ∧
    (0 < s.len → s.allocated 0 = false →
      ∀ i ∈ [Instr.sStart ign, .sRepeatedStart ign], exec i s = .fault .storageInvalid)

/-- Arbitration lost: `CMD_RESTART`, and neither `CUR`, `OK` nor `STATE` moves
(40_sequencer.md R132). -/
def Obligations.ArbitrationLossRequestsStart : Prop :=
  ∀ (ign : Byte) (s : State),
    exec (.sArbitrationLost ign) s = .next { s with
      cr := ⟨true, true, false, true, false⟩, iflag := false, armed := true,
      tr := s.tr ++ [.wrCR (CmdWord.restart.byte s.cfg)] }

/-- Every terminal failure records the masked code, or the whole status byte, and writes
`CMD_RESET`; `IF` and `OK` stay (40_sequencer.md R124, R133 to R137). -/
def Obligations.TerminalFailuresRecordAndReset : Prop :=
  ∀ (code ign : Byte) (s : State), ∀ p ∈ failures s.cfg code ign,
    exec p.1 s = .next { s with
      state := if s.cfg.stateCapture = .masked then p.2 else p.2 ||| ign,
      cr := ⟨true, false, false, false, false⟩, armed := false,
      tr := s.tr ++ [.wrCR (CmdWord.reset.byte s.cfg)] }

/-! ### The sequencer: what every reaction keeps -/

/-- Closure of all thirteen reactions: a reaction writes nothing but `CR`, `DR` (the byte handed to
the controller with it), `CUR`, `OK`, `STATE`, buffer bytes and the trace; `IF` and `ARMED` move as
the write of a command word to `CR` moves them; of the storage a storing reaction writes the byte at
`BUF + CUR`, which lies in the buffer, and any other none. It reads neither `ERRCNT` nor a façade working register: with others
in their place it does the same (40_sequencer.md R138). -/
def Obligations.ReactionsWriteNothingElse : Prop :=
  ∀ (i : Instr) (s t : State), isReaction i = true → exec i s = .next t →
    (∃ w : CmdWord, t = { s with
      cr := (s.writeCR w).cr, iflag := (s.writeCR w).iflag, armed := (s.writeCR w).armed,
      dr := t.dr, lastDr := t.lastDr, cur := t.cur, ok := t.ok, state := t.state, mem := t.mem,
      tr := t.tr }) ∧
    (t.lastDr = t.dr ∨ (t.lastDr = s.lastDr ∧ t.dr = s.dr)) ∧
    (isStore i = false → t.mem = s.mem) ∧
    (isStore i = true → s.inBuffer (s.bufAddr s.cur) = true) ∧
    (∀ a, (isStore i = true → a ≠ s.bufAddr s.cur) → t.mem.read a = s.mem.read a) ∧
    ∀ (e w b l : Nat) (op : Fop) (pc : Fpc) (k : Bool),
      exec i { s with
        errcnt := e, fop := op, fpc := pc, wcnt := w, aBuf := b, aLen := l, tOk := k } =
      .next { t with
        errcnt := e, fop := op, fpc := pc, wcnt := w, aBuf := b, aLen := l, tOk := k }

/-- A reaction ends with exactly one `CR` write, of a command word, and leaves the sequencer
disabled until the controller reports the next event: from any state in which it is disabled, no move
of any agent but the controller's report of an event enables it (40_sequencer.md R120). -/
def Obligations.ReactionsEndWithOneCommandWord : Prop :=
  (∀ (i : Instr) (s t : State), isReaction i = true → exec i s = .next t →
    t.seqEnabled = false ∧
    ∃ (before : List TraceEvent) (w : CmdWord),
      t.tr = s.tr ++ before ++ [.wrCR (w.byte s.cfg)] ∧ ∀ b : Byte, TraceEvent.wrCR b ∉ before) ∧
  ∀ (c : Choice) (s t : State), s.seqEnabled = false → agentTurn c s = .next t →
    t.seqEnabled = true → isReport c = true ∧ s.eventEnabled = true

/-- Memory frame of every operation: only the two read-data reactions store, and they store one
byte at `BUF + CUR`; every other address, and every address for every other operation, reads as
before (40_sequencer.md R148). -/
def Obligations.OnlyReadReactionsStoreAndOnlyAtTheCursor : Prop :=
  ∀ (i : Instr) (s t : State) (a : Nat), exec i s = .next t →
    (isStore i = true → a ≠ s.bufAddr s.cur) → t.mem.read a = s.mem.read a

/-- The cursor invariant: a START event establishes `CUR <= LEN` and every reaction keeps it
(10_state.md R43). -/
def Obligations.CursorStaysWithinTheLength : Prop :=
  ∀ (i : Instr) (s t : State) (ign : Byte), isReaction i = true → exec i s = .next t →
    (i = .sStart ign ∨ i = .sRepeatedStart ign ∨ s.cur ≤ s.len) → t.cur ≤ t.len ∧ t.len = s.len

/-- The masked-off bits of the status byte: the controller may report any byte whole; with
`STATE_CAPTURE = masked` they change nothing, so two status bytes with one code lead to states that
differ in `SR` only; with `STATE_CAPTURE = raw` they appear in `STATE` after a terminal failure, which
holds the whole byte (43_controller_env.md R189). -/
def Obligations.MaskedOffBitsOfTheStatus : Prop :=
  (∀ (s t : State) (b b' : Byte), s.cfg.stateCapture = .masked →
    statusCode s.cfg b = statusCode s.cfg b' →
    sequencerTurn { s with sr := b } = .next t →
    sequencerTurn { s with sr := b' } = .next { t with sr := b' }) ∧
  (∀ (s : State) (code ign : Byte), s.cfg.stateCapture = .raw → s.cr.ie = true →
    s.iflag = true → ∀ p ∈ failures s.cfg code ign, decode s.cfg (.srb s.sr) = .ok p.1 →
    ∃ t, sequencerTurn s = .next t ∧ t.state = s.sr) ∧
  (∀ (s : State) (b data other : Byte), s.eventEnabled = true →
    ∃ t, agentTurn (.event b data other) s = .next t ∧ t.sr = b)

/-! ### The façade (41_facade.md): each command's micro-steps -/

/-- `init`: I1 writes `BR`, I2 writes `PORT`, I3 writes `CMD_IDLE` and returns
(41_facade.md R151). -/
def Obligations.InitMicroSteps : Prop :=
  ∀ s : State,
    (s.fop = .none → exec .hInit s = .next { s with
      fop := .init, hc := none, br := s.cfg.brValue, fpc := .I2,
      tr := s.tr ++ [.call .init none, .wrBR s.cfg.brValue] }) ∧
    (s.fop = .init → s.fpc = .I2 → exec .hInit s = .next { s with
      port := !s.cfg.externalPullups, fpc := .I3,
      tr := s.tr ++ [.wrPORT (!s.cfg.externalPullups)] }) ∧
    (s.fop = .init → s.fpc = .I3 → exec .hInit s = .next { s with
      cr := ⟨true, false, false, false, false⟩, armed := false, fop := .none, hr := none,
      tr := s.tr ++ [.wrCR (CmdWord.idle.byte s.cfg), .ret .init none] })

/-- `busy`, HC_OP 1, returns the interrupt-enable bit, at once, and writes no register but the
façade's own label (10_state.md R38, 41_facade.md R152). -/
def Obligations.BusyReturnsTheInterruptEnable : Prop :=
  ∀ (b l : Nat) (s : State), decode s.cfg (.hcmd ⟨1, b, l⟩) = .ok .hBusy ∧
    (s.fop = .none → exec .hBusy s = .next { s with
      fpc := .B1, hc := none, hr := some (.flag s.cr.ie),
      tr := s.tr ++ [.call .busy none, .ret .busy (some (.flag s.cr.ie))] })

/-- `configure`: C1 rejects the null buffer, else latches the operands; C3 and C4 install them
(41_facade.md R153). -/
def Obligations.ConfigureMicroSteps : Prop :=
  ∀ (b l : Nat) (s : State),
    (s.fop = .none → b = s.cfg.null → exec (.hConfigure b l) s = .next { s with
      fpc := .C1, hc := none, hr := none,
      tr := s.tr ++ [.call .configure (some (b, l)), .ret .configure none] }) ∧
    (s.fop = .none → b ≠ s.cfg.null → exec (.hConfigure b l) s = .next { s with
      fop := .configure, fpc := .W0, hc := none, aBuf := b, aLen := l,
      tr := s.tr ++ [.call .configure (some (b, l))] }) ∧
    (s.fop = .configure → s.fpc = .C3 →
      exec (.hConfigure b l) s = .next { s with buf := s.aBuf, fpc := .C4 }) ∧
    (s.fop = .configure → s.fpc = .C4 → exec (.hConfigure b l) s = .next { s with
      len := s.aLen, fop := .none, hr := none, tr := s.tr ++ [.ret .configure none] })

/-- `start`: S1 is a no-op with no buffer, else the command waits; S3 and S4 reset the outcome; S5
writes `CMD_START` and returns (41_facade.md R154). -/
def Obligations.StartMicroSteps : Prop :=
  ∀ s : State,
    (s.fop = .none → s.buf = s.cfg.null → exec .hStart s = .next { s with
      fpc := .S1, hc := none, hr := none,
      tr := s.tr ++ [.call .start none, .ret .start none] }) ∧
    (s.fop = .none → s.buf ≠ s.cfg.null → exec .hStart s = .next { s with
      fop := .start, fpc := .W0, hc := none, tr := s.tr ++ [.call .start none] }) ∧
    (s.fop = .start → s.fpc = .S3 → exec .hStart s = .next { s with ok := false, fpc := .S4 }) ∧
    (s.fop = .start → s.fpc = .S4 →
      exec .hStart s = .next { s with state := s.cfg.codeNoState, fpc := .S5 }) ∧
    (s.fop = .start → s.fpc = .S5 → exec .hStart s = .next { s with
      cr := ⟨true, true, false, true, false⟩, iflag := false, armed := true, fop := .none,
      hr := none, tr := s.tr ++ [.wrCR (CmdWord.start.byte s.cfg), .ret .start none] })

/-- `queryResult`: it begins with the wait's W0; Q2 latches `OK`; Q3 counts a failure, wrapping or
saturating at the width, and returns the latched flag (41_facade.md R155). -/
def Obligations.QueryResultMicroSteps : Prop :=
  ∀ s : State,
    (s.fop = .none → exec .hQueryResult s = .next { s with
      fop := .queryResult, fpc := .W1, hc := none, wcnt := 0,
      tr := s.tr ++ [.call .queryResult none] }) ∧
    (s.fop = .queryResult → s.fpc = .Q2 →
      exec .hQueryResult s = .next { s with tOk := s.ok, fpc := .Q3 }) ∧
    (s.fop = .queryResult → s.fpc = .Q3 → exec .hQueryResult s = .next { s with
      errcnt :=
        if s.tOk = true then s.errcnt
        else if s.errcnt < 2 ^ s.cfg.errcntWidth - 1 then s.errcnt + 1
        else if s.cfg.errcntMode = .wrap then 0 else s.errcnt,
      fop := .none, hr := some (.flag s.tOk),
      tr := s.tr ++ [.ret .queryResult (some (.flag s.tOk))] })

/-- The two diagnostic reads: `lastStatus` returns `STATE`, the error-counter read returns `ERRCNT`,
each at once, also while busy, writing no register (41_facade.md R156, R157). -/
def Obligations.DiagnosticReadsReturnTheirRegister : Prop :=
  ∀ s : State, s.fop = .none →
    exec .hLastStatus s = .next { s with
      fpc := .L1, hc := none, hr := some (.status s.state),
      tr := s.tr ++ [.call .lastStatus none, .ret .lastStatus (some (.status s.state))] } ∧
    exec .hErrorCount s = .next { s with
      fpc := .E1, hc := none, hr := some (.count s.errcnt),
      tr := s.tr ++ [.call .errorCount none, .ret .errorCount (some (.count s.errcnt))] }

/-- The bounded wait inside each of the three commands that wait: the count starts at 0, an idle poll
goes on after the wait, a busy poll delays while the budget lasts and times out when it is used up,
a delay that ended counts one, T1 records the timeout, T2 writes `CMD_IDLE` (42_recovery.md R170,
R174). -/
def Obligations.BoundedWaitMicroSteps : Prop :=
  ∀ (b l : Nat) (s : State), ∀ p ∈ waiters b l, s.fop = p.1 →
    (s.fpc = .W0 → exec p.2.1 s = .next { s with wcnt := 0, fpc := .W1 }) ∧
    (s.fpc = .W1 → s.cr.ie = false → exec p.2.1 s = .next { s with fpc := p.2.2 }) ∧
    (s.fpc = .W1 → s.cr.ie = true → s.wcnt < s.cfg.waitBudget →
      exec p.2.1 s = .next { s with fpc := .W2, elapsed := false }) ∧
    (s.fpc = .W1 → s.cr.ie = true → s.cfg.waitBudget ≤ s.wcnt →
      exec p.2.1 s = .next { s with fpc := .T1 }) ∧
    (s.fpc = .W2 → s.elapsed = true →
      exec p.2.1 s = .next { s with wcnt := s.wcnt + 1, fpc := .W1 }) ∧
    (s.fpc = .W2 → s.elapsed = false → exec p.2.1 s = .next s) ∧
    (s.fpc = .T1 → exec p.2.1 s = .next { s with state := s.cfg.codeTimeout, fpc := .T2 }) ∧
    (s.fpc = .T2 → exec p.2.1 s = .next { s with
      cr := ⟨true, false, false, false, false⟩, armed := false, fpc := p.2.2,
      tr := s.tr ++ [.wrCR (CmdWord.idle.byte s.cfg)] })

/-! ### The façade: whole commands -/

/-- `init` alone, from any state between commands: three micro-steps program `BR` and `PORT` and write
`CMD_IDLE`; no block register changes (41_facade.md R151). -/
def Obligations.InitCompletes : Prop :=
  ∀ s : State, s.fop = .none → execTimes .hInit 3 s = .next { s with
    br := s.cfg.brValue, port := !s.cfg.externalPullups,
    cr := ⟨true, false, false, false, false⟩, armed := false, fpc := .I3, hc := none, hr := none,
    tr := s.tr ++ [.call .init none, .wrBR s.cfg.brValue, .wrPORT (!s.cfg.externalPullups),
      .wrCR (CmdWord.idle.byte s.cfg), .ret .init none] }

/-- `configure` alone while idle: C1, W0, W1, C3, C4 install the buffer and the length, any length,
and write no other block register and no controller register (41_facade.md R153; vector V59). -/
def Obligations.ConfigureCompletesWhenIdle : Prop :=
  ∀ (b l : Nat) (s : State), s.fop = .none → s.cr.ie = false → b ≠ s.cfg.null →
    execTimes (.hConfigure b l) 5 s = .next { s with
      buf := b, len := l, aBuf := b, aLen := l, wcnt := 0, fpc := .C4, hc := none, hr := none,
      tr := s.tr ++ [.call .configure (some (b, l)), .ret .configure none] }

/-- `start` alone while idle with a buffer: S1, W0, W1, S3, S4, S5 reset the outcome and make the
block busy with a START requested (41_facade.md R154; vector V64). -/
def Obligations.StartCompletesWhenIdle : Prop :=
  ∀ s : State, s.fop = .none → s.cr.ie = false → s.buf ≠ s.cfg.null →
    execTimes .hStart 6 s = .next { s with
      ok := false, state := s.cfg.codeNoState, cr := ⟨true, true, false, true, false⟩,
      iflag := false, armed := true, wcnt := 0, fpc := .S5, hc := none, hr := none,
      tr := s.tr ++ [.call .start none, .wrCR (CmdWord.start.byte s.cfg), .ret .start none] }

/-- `queryResult` alone while idle: W0, W1, Q2, Q3 return `OK` and count one exactly when it is 0
(41_facade.md R155; vectors V67 to V72). -/
def Obligations.QueryResultCompletesWhenIdle : Prop :=
  ∀ s : State, s.fop = .none → s.cr.ie = false →
    execTimes .hQueryResult 4 s = .next { s with
      errcnt := if s.ok = true then s.errcnt else incErrcnt s.cfg s.errcnt,
      tOk := s.ok, wcnt := 0, fpc := .Q3, hc := none, hr := some (.flag s.ok),
      tr := s.tr ++ [.call .queryResult none, .ret .queryResult (some (.flag s.ok))] }

/-- Caller misuse is silent: a null buffer, and `start` with no buffer, return at the first
micro-step even while busy; of the block, the controller and the storage nothing changes, and the
trace gains `Call` and `Ret` only (41_facade.md R158). -/
def Obligations.MisuseIsSilent : Prop :=
  ∀ (l : Nat) (s : State), s.fop = .none →
    (exec (.hConfigure s.cfg.null l) s = .next { s with
      fpc := .C1, hc := none, hr := none,
      tr := s.tr ++ [.call .configure (some (s.cfg.null, l)), .ret .configure none] }) ∧
    (s.buf = s.cfg.null → exec .hStart s = .next { s with
      fpc := .S1, hc := none, hr := none,
      tr := s.tr ++ [.call .start none, .ret .start none] })

/-- Configuring the same buffer and length twice leaves the descriptor as it was after the first
call, and the second call takes no delay: it completes in five micro-steps
(41_facade.md R159). -/
def Obligations.ConfigureTwiceIsIdempotent : Prop :=
  ∀ (b l : Nat) (s : State), s.fop = .none → s.cr.ie = false → b ≠ s.cfg.null →
    ∃ t u : State, execTimes (.hConfigure b l) 5 s = .next t ∧
      execTimes (.hConfigure b l) 5 t = .next u ∧
      u = { t with tr := u.tr } ∧ u.buf = b ∧ u.len = l ∧ u.wcnt = 0

/-! ### The façade: frames and rights -/

/-- Frame of all seven commands: no command writes `CUR`, `DR`, `SR` or a buffer byte, and every
execution of one completes (10_state.md R42, 60_exceptions.md R219). -/
def Obligations.CommandsKeepTheSequencersState : Prop :=
  ∀ (i : Instr) (s : State), isReaction i = false → ∃ t, exec i s = .next t ∧
    t.cur = s.cur ∧ t.dr = s.dr ∧ t.lastDr = s.lastDr ∧ t.sr = s.sr ∧ t.mem = s.mem ∧
    t.cfg = s.cfg ∧
    t.refBus = s.refBus ∧ t.pending = s.pending ∧ t.draws = s.draws

/-- Who may write what (10_state.md R42, 40_sequencer.md R149): over all operations, only
`queryResult` moves `ERRCNT`, only `configure` moves `BUF` and `LEN`, only `init` moves `BR` and
`PORT`, only a reaction sets `OK`, only `start` clears it. -/
def Obligations.WriteRightsOfEveryOperation : Prop :=
  ∀ (i : Instr) (s t : State), exec i s = .next t →
    (t.errcnt ≠ s.errcnt → i = .hQueryResult ∧ s.fpc = .Q3 ∧ s.tOk = false) ∧
    (t.buf ≠ s.buf ∨ t.len ≠ s.len →
      (∃ b l, i = .hConfigure b l) ∧ (s.fpc = .C3 ∨ s.fpc = .C4)) ∧
    (t.br ≠ s.br ∨ t.port ≠ s.port → i = .hInit) ∧
    (s.ok = false → t.ok = true → isReaction i = true ∧ t.cr.ie = false) ∧
    (s.ok = true → t.ok = false → i = .hStart ∧ s.fpc = .S3)

/-- While the block is idle, no move of any agent makes it busy but the façade's micro-step S5 of
`start` (42_recovery.md R175). -/
def Obligations.OnlyStartRaisesBusy : Prop :=
  ∀ (c : Choice) (s t : State), s.cr.ie = false → agentTurn c s = .next t → t.cr.ie = true →
    c = .facade ∧ s.fop = .start ∧ s.fpc = .S5

/-- The bounded wait returns only with the block idle: a command that leaves the wait's labels for
the label after it finds `CR.IE = 0` (42_recovery.md R175). -/
def Obligations.BoundedWaitReturnsIdle : Prop :=
  ∀ (b l : Nat) (s t : State), ∀ p ∈ waiters b l, s.fop = p.1 → s.fpc.isWait = true →
    exec p.2.1 s = .next t → t.fpc.isWait = true ∨ (t.fpc = p.2.2 ∧ t.cr.ie = false)

/-! ### The environment (43_controller_env.md) -/

/-- The controller's event step, for every status byte and data byte drawn: when enabled and armed
with no event pending, it reports the status byte, and `DR` holds the byte received if the class is a
read-data class and is unspecified otherwise; when not, there is no step
(43_controller_env.md R186, R188; vectors V88, V89). -/
def Obligations.ControllerEventStep : Prop :=
  ∀ (s : State) (status data other : Byte), s.cfg.Valid →
    (s.cr.en = true → s.armed = true → s.iflag = false →
      (statusCode s.cfg status = s.cfg.codeReadDataAck ∨
          statusCode s.cfg status = s.cfg.codeReadDataNack →
        agentTurn (.event status data other) s = .next { s with
          sr := status, dr := data, iflag := true, armed := false }) ∧
      (statusCode s.cfg status ≠ s.cfg.codeReadDataAck →
          statusCode s.cfg status ≠ s.cfg.codeReadDataNack →
        agentTurn (.event status data other) s = .next { s with
          sr := status, dr := other, iflag := true, armed := false })) ∧
    (¬ (s.cr.en = true ∧ s.armed = true ∧ s.iflag = false) →
      agentTurn (.event status data other) s = .next s)

/-- What a `CR` write does to the controller, for each of the seven words (43_controller_env.md R187,
20_memory.md R66; vectors V83 to V87). -/
def Obligations.CommandWordsCommandTheController : Prop :=
  ∀ (w : CmdWord) (s : State),
    s.writeCR w = { s with
      cr := ⟨w.fields.en, w.fields.ie, w.fields.ea, w.fields.sta, w.fields.sto⟩,
      iflag := (s.iflag && !w.fields.ifc),
      armed := (w.fields.en && w.fields.ifc && !w.fields.sto),
      tr := s.tr ++ [.wrCR (w.byte s.cfg)] }

/-- The host may change its storage while the block is idle, and outside the buffer at any time; a
change of the buffer while busy is refused with `StorageInvalid` (20_memory.md R62,
43_controller_env.md R195). -/
def Obligations.HostStorageIsStableWhileBusy : Prop :=
  ∀ (s : State) (a : Nat) (v : Byte), s.addrExists a = true →
    (s.cr.ie = true → s.buf ≤ a → a < s.buf + s.len →
      agentTurn (.hostStore a v) s = .fault .storageInvalid ∧
      agentTurn (.hostFree a) s = .fault .storageInvalid) ∧
    (s.cr.ie = false ∨ a < s.buf ∨ s.buf + s.len ≤ a →
      ∃ t, agentTurn (.hostStore a v) s = .next t ∧ t.mem.read a = some v ∧
        t = { s with mem := t.mem } ∧ ∀ x, x ≠ a → t.mem.read x = s.mem.read x) ∧
    (s.cr.ie = false ∨ a < s.buf ∨ s.buf + s.len ≤ a → Memory.wf s.mem →
      ∃ t, agentTurn (.hostFree a) s = .next t ∧ t.mem.read a = none ∧
        t = { s with mem := t.mem } ∧ ∀ x, x ≠ a → t.mem.read x = s.mem.read x)

/-! ### Steps -/

/-- A step runs the decoded reaction: with the sequencer chosen and enabled, in whatever state the
machine is, the status register decodes to exactly one reaction and the step is `exec` of it, the
choice taken (40_sequencer.md R121, enabled as R120 says). -/
def Obligations.StepReactsToThePendingEvent : Prop :=
  ∀ (s : State) (rest : List Choice), s.pending = .sequencer :: rest →
    s.cr.ie = true → s.iflag = true →
    (∃ i, decode s.cfg (.srb s.sr) = .ok i ∧ isReaction i = true) ∧
    ∀ i, decode s.cfg (.srb s.sr) = .ok i → step s = exec i { s with pending := rest }

/-- The host presents a command, and a step runs it. With no command in progress and none presented,
the host's step puts its word on the port; with a command in progress, or a word on the port (that
the port holds one word is the model's, log 4), it is no step. With the façade chosen, no command in
progress and a word presented, a step is `exec` of what the word decodes to; HC_OP 7 is refused
(43_controller_env.md R194, 41_facade.md R150, 30_encoding.md R100). -/
def Obligations.StepTakesThePresentedCommand : Prop :=
  ∀ (s : State) (rest : List Choice) (w : HostWord),
    (s.pending = .present w :: rest →
      (s.fop = .none → s.hc = none → step s = .next { s with hc := some w, pending := rest }) ∧
      (s.fop ≠ .none ∨ s.hc ≠ none → step s = .next { s with pending := rest })) ∧
    (s.pending = .facade :: rest → s.fop = .none → s.hc = some w →
      (∀ i, decode s.cfg (.hcmd w) = .ok i → step s = exec i { s with pending := rest }) ∧
      (w.op = 7 → step s = .refused .reservedHostCommand))

/-- A step goes on with the command in progress: its next micro-step is `exec` of it; a launch whose
storage is not allocated is refused with `StorageInvalid` (41_facade.md R150, 20_memory.md R62). -/
def Obligations.StepContinuesTheCommandInProgress : Prop :=
  ∀ (s : State) (rest : List Choice) (i : Instr), s.pending = .facade :: rest →
    s.command = some i →
    (¬ (s.fop = .start ∧ s.fpc = .S5) ∨ s.storageValid = true →
      step s = exec i { s with pending := rest }) ∧
    (s.fop = .start → s.fpc = .S5 → s.storageValid = false → step s = .fault .storageInvalid)

/-- An agent that is not enabled takes no step: the sequencer without `IE` or without `IF`, the façade
with nothing to do (40_sequencer.md R120, 00_scope.md R10; vectors V54, V55). -/
def Obligations.DisabledAgentsTakeNoStep : Prop :=
  ∀ (s : State) (rest : List Choice),
    (s.pending = .sequencer :: rest → s.cr.ie = false ∨ s.iflag = false →
      step s = .next { s with pending := rest }) ∧
    (s.pending = .facade :: rest → s.fop = .none → s.hc = none →
      step s = .next { s with pending := rest })

/-- Steps take the pending choices in order, and no agent reads or changes what is pending after its
own choice: a run over a list of choices is the moves of that list, whatever is pending behind it
(20_memory.md R69; the list is the model's own, log 5). -/
def Obligations.RunsTakeThePendingChoicesInOrder : Prop :=
  ∀ (cs rest : List Choice) (s : State),
    Host.Core.run core cs.length { s with pending := cs ++ rest } =
      turns cs { s with pending := rest }

/-! ### Reset and invariants -/

/-- The values the spec gives for reset (10_state.md R48, 70_reset_and_hazards.md R240, R241, the
spec's decisions D22 and D23), of the block after power-on and of any state after the reset move. That
reset is a move the environment may take at any step, and that it leaves the storage and the
parameters as they were, is the model's choice (log 19: R48 leaves the storage unspecified); the
registers the spec leaves unspecified then hold whatever was drawn. -/
def Obligations.ResetValues : Prop :=
  ∀ (s t : State) (sr dr br : Byte) (port : Bool),
    (s = State.reset ∨ agentTurn (.reset sr dr br port) t = .next s) →
    s.buf = s.cfg.null ∧ s.len = 0 ∧ s.cur = 0 ∧ s.ok = false ∧ s.state = s.cfg.codeNoState ∧
    s.errcnt = 0 ∧ s.fop = .none ∧ s.wcnt = 0 ∧ s.cr = ⟨false, false, false, false, false⟩ ∧
    s.iflag = false ∧ s.armed = false ∧ s.tr = [] ∧
    (agentTurn (.reset sr dr br port) t = .next s →
      s.sr = sr ∧ s.dr = dr ∧ s.br = br ∧ s.port = port ∧ s.mem = t.mem ∧ s.cfg = t.cfg)

/-- The invariant holds at reset, under every valid configuration and under the reference profile. -/
def Obligations.ResetMeetsTheInvariant : Prop :=
  (∀ c : Cfg, c.Valid → Inv (State.resetFor c)) ∧ Inv State.reset

/-- Every step keeps the invariant, whichever agent moves and whatever the environment draws: widths
and counters in range, canonical memory, a legal façade, and of a transfer in flight not succeeded,
configured, stored, with a next event possible (10_state.md R43 to R45, 43_controller_env.md
R187). -/
def Obligations.EveryStepKeepsTheInvariant : Prop :=
  ∀ s t : State, Inv s → step s = .next t → Inv t

/-- In every reachable state, busy implies not succeeded (10_state.md R44). -/
def Obligations.BusyImpliesNotSucceeded : Prop :=
  ∀ s : State, Reachable s → s.cr.ie = true → s.ok = false

/-- In every reachable state, busy implies configured (10_state.md R45). -/
def Obligations.BusyImpliesConfigured : Prop :=
  ∀ s : State, Reachable s → s.cr.ie = true → s.buf ≠ s.cfg.null

/-- In every reachable state a transfer in flight has a next event pending or possible, and while idle
the sequencer is disabled (43_controller_env.md R187). -/
def Obligations.ATransferInFlightHasANextEvent : Prop :=
  ∀ s : State, Reachable s →
    (s.cr.ie = true → s.iflag = true ∨ s.eventEnabled = true) ∧
    (s.cr.ie = false → s.seqEnabled = false)

/-- Under the invariant a move stops only as 60_exceptions.md R225 lists. It faults at a read-data
reaction with the cursor at or beyond `LEN`, at a launch without storage, and at a host that touches
what it may not; the sequencer never raises `StorageInvalid`. It is refused only where the façade takes
a presented word of HC_OP 7, or, which is the model's own (log 10), of HC_OP 2 with operands that do
not fit the port. -/
def Obligations.FaultsAreOnlyThoseListed : Prop :=
  ∀ (c : Choice) (s : State), Inv s →
    (∀ f : Fault, agentTurn c s = .fault f →
      (c = .sequencer ∧ s.len ≤ s.cur ∧ f = .bufferBounds s.cur s.len ∧
        isReadData s.cfg s.sr = true) ∨
      (c = .facade ∧ s.fop = .start ∧ s.fpc = .S5 ∧ s.storageValid = false ∧
        f = .storageInvalid) ∨
      (∃ a v, (c = .hostStore a v ∨ c = .hostFree a) ∧ hostForbidden a s = true ∧
        f = .storageInvalid)) ∧
    ∀ r : Refusal, agentTurn c s = .refused r →
      c = .facade ∧ s.fop = .none ∧ ∃ w : HostWord, s.hc = some w ∧
        ((w.op = 7 ∧ r = .reservedHostCommand) ∨
          (w.op = 2 ∧ (2 ^ s.cfg.addrWidth ≤ w.hcBuf ∨ 2 ^ s.cfg.lenWidth ≤ w.hcLen) ∧
            r = .operandTooWide))

/-! ### Transfers -/

/-- A write transfer in protocol order: from any transfer in flight over a buffer of at least one
byte, whatever the ignored bits and the data the controller draws, `L + 1` events and reactions send
every buffer byte once, in index order, and end in success with STOP requested; memory and `STATE`
are unchanged (40_sequencer.md R144). -/
def Obligations.WriteTransferSendsEveryByte : Prop :=
  ∀ (s : State) (bs : List Byte) (ds : List Draw), s.cfg.Valid → InFlight s → BufferHolds s bs →
    1 ≤ bs.length → ds.length = bs.length + 1 → (∀ d ∈ ds, s.cfg.IsIgnored d.ign) →
    ∃ t : State, turns (eventTurns (writeCode s.cfg) 0 ds) s = .next t ∧
      t = { s with
        cur := s.len, ok := true, cr := ⟨true, false, false, false, true⟩, iflag := false,
        armed := false, sr := t.sr, dr := t.dr, lastDr := bs.getLastD s.lastDr,
        tr := s.tr ++ sendTrace s.cfg 0 bs ++ [.wrCR (CmdWord.stop.byte s.cfg)] }

/-- A read transfer in protocol order: from any transfer in flight over a buffer of at least two
bytes, buffer byte 0 is sent, then the received bytes are stored at indices 1 to `L - 1` in order,
the last under NACK and the others under ACK, and the transfer ends in success with STOP requested;
no other address changes (40_sequencer.md R144). -/
def Obligations.ReadTransferStoresEveryByte : Prop :=
  ∀ (s : State) (a : Byte) (ds : List Draw) (d0 d1 : Draw), s.cfg.Valid → InFlight s →
    s.storageValid = true → s.mem.read (s.bufAddr 0) = some a → 2 ≤ s.len →
    ds.length + 1 = s.len → (∀ d ∈ d0 :: d1 :: ds, s.cfg.IsIgnored d.ign) →
    ∃ t : State, turns (eventTurns (readCode s.cfg s.len) 0 (d0 :: d1 :: ds)) s = .next t ∧
      t = { s with
        cur := s.len - 1, ok := true, cr := ⟨true, false, false, false, true⟩, iflag := false,
        armed := false, sr := t.sr, dr := t.dr, lastDr := a, mem := t.mem,
        tr := s.tr ++ [.bufRd 0 a, .wrDR a, .wrCR (CmdWord.send.byte s.cfg),
            .wrCR ((if 2 < s.len then CmdWord.ack else CmdWord.nack).byte s.cfg)]
          ++ receiveTrace s.cfg s.len 1 (ds.map Draw.data) } ∧
      (∀ k d, ds[k]? = some d → t.mem.read (s.bufAddr (k + 1)) = some d.data) ∧
      (∀ x, x ≤ s.buf ∨ s.buf + s.len ≤ x → t.mem.read x = s.mem.read x)

/-- The length corner cases, in protocol order from any transfer in flight: length 0 succeeds at the
START event with STOP requested and no byte sent; length 1 as a write succeeds after the address is
accepted; length 1 as a read stops with `BufferBounds(1, 1)` at the byte received (40_sequencer.md
R142, 70_reset_and_hazards.md R251, both derived there). -/
def Obligations.LengthCornerCases : Prop :=
  ∀ (s : State) (a : Byte) (d0 d1 d2 : Draw), s.cfg.Valid → InFlight s →
    (∀ d ∈ [d0, d1, d2], s.cfg.IsIgnored d.ign) →
    (s.len = 0 →
      ∃ t, turns (eventTurns (writeCode s.cfg) 0 [d0]) s = .next t ∧ t.ok = true ∧
        t.cr = ⟨true, false, false, false, true⟩ ∧
        t.tr = s.tr ++ [.wrCR (CmdWord.stop.byte s.cfg)]) ∧
    (s.len = 1 → s.addrExists (s.bufAddr 0) = true → s.mem.read (s.bufAddr 0) = some a →
      (∃ t, turns (eventTurns (writeCode s.cfg) 0 [d0, d1]) s = .next t ∧ t.ok = true ∧
        t.tr = s.tr ++ [.bufRd 0 a, .wrDR a, .wrCR (CmdWord.send.byte s.cfg),
          .wrCR (CmdWord.stop.byte s.cfg)]) ∧
      turns (eventTurns (readCode s.cfg 1) 0 [d0, d1, d2]) s = .fault (.bufferBounds 1 1))

/-- Arbitration lost at any point of a transfer: the reaction writes `CMD_RESTART` and leaves the
transfer in flight, so that any number of losses may follow (unbounded, the spec's decision D36 on
conflict C7), `OK`, `STATE`, `CUR` and the buffer untouched; after the START event that follows,
transmission begins again with buffer byte 0 (40_sequencer.md R132; R145, derived there; R125, with
the spec's decision D8). -/
def Obligations.ArbitrationLossRestartsFromByteZero : Prop :=
  ∀ (s : State) (b : Byte) (d d' : Draw), s.cfg.Valid → InFlight s → 0 < s.len →
    s.addrExists (s.bufAddr 0) = true → s.mem.read (s.bufAddr 0) = some b →
    s.cfg.IsIgnored d.ign → s.cfg.IsIgnored d'.ign →
    ∃ t u : State,
      turns [.event (s.cfg.codeArbitrationLost ||| d.ign) d.data d.other, .sequencer] s = .next t ∧
      InFlight t ∧ t.cr = ⟨true, true, false, true, false⟩ ∧
      t.tr = s.tr ++ [.wrCR (CmdWord.restart.byte s.cfg)] ∧ t.cur = s.cur ∧ t.ok = s.ok ∧
      t.state = s.state ∧ t.mem = s.mem ∧ t.buf = s.buf ∧ t.len = s.len ∧
      turns [.event (s.cfg.codeStart ||| d'.ign) d'.data d'.other, .sequencer] t = .next u ∧
      u = { t with
        cur := 1, dr := b, lastDr := b, sr := s.cfg.codeStart ||| d'.ign,
        cr := ⟨true, true, false, false, false⟩,
        tr := t.tr ++ [.bufRd 0 b, .wrDR b, .wrCR (CmdWord.send.byte s.cfg)] }

/-- The timeout property: if no event comes and every delay ends, a `queryResult` presented while busy
returns false after exactly `WAIT_BUDGET` delays, for every budget, records `CODE_TIMEOUT`, counts
one, and leaves `CR` idle (42_recovery.md R170, R171, R174, R176, 41_facade.md R155). -/
def Obligations.QueryResultTimesOut : Prop :=
  ∀ (s : State) (b l : Nat), s.fop = .none → s.hc = some ⟨4, b, l⟩ → s.cr.ie = true →
    s.ok = false →
    ∃ t : State, turns (timeoutTurns s.cfg.waitBudget) s = .next t ∧
      t = { s with
        state := s.cfg.codeTimeout, errcnt := incErrcnt s.cfg s.errcnt,
        cr := ⟨true, false, false, false, false⟩, armed := false, fpc := .Q3,
        wcnt := s.cfg.waitBudget, tOk := false, hc := none, hr := some (.flag false),
        elapsed := t.elapsed,
        tr := s.tr ++ [.call .queryResult none, .wrCR (CmdWord.idle.byte s.cfg),
          .ret .queryResult (some (.flag false))] }

/-- The timeout race. A completion between W1 and T2, by any reaction that can complete: the command
returns true and counts nothing, although the timeout code is recorded, whether the completion falls
before T1 or between T1 and T2 (third row). Any moves of sequencer and controller between W1 and T1
and between T1 and T2 that leave the transfer in flight, none of them included: the command returns
false, counts one, and the timeout code and `CMD_IDLE` stand (first and second row)
(70_reset_and_hazards.md R250). -/
def Obligations.CompletionRacesTheTimeout : Prop :=
  ∀ s : State, s.fop = .queryResult → s.fpc = .T1 → s.cr.ie = true →
    (∀ (ign : Byte) (i : Instr), s.iflag = true → decode s.cfg (.srb s.sr) = .ok i →
      Completes ign s i →
      ∀ order ∈ [[Choice.sequencer, .facade, .facade, .facade, .facade],
                 [Choice.facade, .sequencer, .facade, .facade, .facade]],
        ∃ t, turns order s = .next t ∧ t.ok = true ∧ t.state = s.cfg.codeTimeout ∧
          t.cr = ⟨true, false, false, false, false⟩ ∧ t.hr = some (.flag true) ∧
          t.errcnt = s.errcnt ∧ t.fop = .none) ∧
    (∀ (before between : List Choice) (u : State), s.ok = false →
      (∀ c ∈ before ++ between, isInterruptSide c = true) →
      turns (before ++ .facade :: between) s = .next u → u.cr.ie = true →
      ∃ t, turns [.facade, .facade, .facade] u = .next t ∧ t.ok = false ∧
        t.state = s.cfg.codeTimeout ∧ t.cr = ⟨true, false, false, false, false⟩ ∧
        t.hr = some (.flag false) ∧ t.errcnt = incErrcnt s.cfg s.errcnt ∧ t.fop = .none)

/-- The timeout race, terminal failure between W1 and T2: the command returns false and counts one;
the status recorded is the later of the two writes (70_reset_and_hazards.md R250, rows four and
five). -/
def Obligations.FailureRacesTheTimeout : Prop :=
  ∀ (s : State) (code ign : Byte), s.fop = .queryResult → s.fpc = .T1 → s.cr.ie = true →
    s.iflag = true → s.ok = false → ∀ p ∈ failures s.cfg code ign,
    decode s.cfg (.srb s.sr) = .ok p.1 →
    (∃ t, turns [.sequencer, .facade, .facade, .facade, .facade] s = .next t ∧
      t.state = s.cfg.codeTimeout ∧ t.ok = false ∧ t.cr = ⟨true, false, false, false, false⟩ ∧
      t.hr = some (.flag false) ∧ t.errcnt = incErrcnt s.cfg s.errcnt) ∧
    (∃ t, turns [.facade, .sequencer, .facade, .facade, .facade] s = .next t ∧
      t.state = capturedStatus s.cfg p.2 ign ∧ t.ok = false ∧
      t.cr = ⟨true, false, false, false, false⟩ ∧ t.hr = some (.flag false) ∧
      t.errcnt = incErrcnt s.cfg s.errcnt)
end

