-- ==== Sys2Proof/Laws/Decode.lean ====
section
/-! SUPPORT. Facts about the mask, the dispatch codes and the decoder. -/

namespace Sys2Proof

theorem statusCode_or {c : Cfg} {code ign : Byte} (hc : code &&& c.statusMask = code)
    (hi : c.IsIgnored ign) : statusCode c (code ||| ign) = code := by
  have : (code ||| ign) &&& c.statusMask = (code &&& c.statusMask) ||| (ign &&& c.statusMask) := by
    ext k; simp [Bool.and_or_distrib_right]
  rw [statusCode, this, hc, hi]; simp

theorem statusIgnored_or {c : Cfg} {code ign : Byte} (hc : code &&& c.statusMask = code)
    (hi : c.IsIgnored ign) : statusIgnored c (code ||| ign) = ign := by
  unfold statusIgnored
  ext k hk
  have h1 := congrArg (fun b : Byte => b.getLsbD k) hc
  have h2 := congrArg (fun b : Byte => b.getLsbD k) hi
  simp [BitVec.getLsbD_eq_getElem, hk] at h1 h2 ⊢
  cases h : c.statusMask[k] <;> simp_all

/-- No bit of a status byte is lost by taking it apart. -/
theorem statusCode_or_statusIgnored (c : Cfg) (b : Byte) :
    statusCode c b ||| statusIgnored c b = b := by
  unfold statusCode statusIgnored
  ext k hk
  cases h : c.statusMask[k] <;> simp [h]

theorem statusIgnored_isIgnored (c : Cfg) (b : Byte) : c.IsIgnored (statusIgnored c b) := by
  unfold Cfg.IsIgnored statusIgnored
  ext k hk
  cases h : c.statusMask[k] <;> simp [h]

theorem statusCode_masked (c : Cfg) (b : Byte) : statusCode c b &&& c.statusMask = statusCode c b := by
  unfold statusCode
  ext k hk
  cases h : c.statusMask[k] <;> simp [h]

/-- Under valid parameters a dispatch code is a fixed point of the mask (00_scope.md R6). -/
theorem Cfg.Valid.masked {c : Cfg} (v : c.Valid) {x : Byte} (h : x ∈ c.dispatchCodes) :
    x &&& c.statusMask = x := v.codesMasked x h

theorem Cfg.pRef_valid : Cfg.pRef.Valid where
  codesDistinct := by decide
  codesMasked := by decide
  noStateDistinct := by decide
  timeoutDistinct := by decide
  noStateTimeout := by decide
  maskFive := by decide
  positionsDistinct := by decide
  lenWidthPos := by decide
  addrWidthPos := by decide
  nullFits := by decide
  errcntWidthPos := by decide

/-- What a command word decodes to is well formed. -/
theorem decodeHost_wellFormed {c : Cfg} {w : HostWord} {i : Instr} (h : decodeHost c w = .ok i) :
    i.WellFormed c := by
  unfold decodeHost at h
  repeat' split at h
  all_goals first
    | (cases h; done)
    | (cases h; trivial)

/-- Everything status decode can answer: one of the twelve classes, by its code, or the class of
every other code (30_encoding.md R92). -/
theorem decodeStatus_cases (c : Cfg) (b : Byte) :
    (statusCode c b = c.codeStart ∧ decodeStatus c b = .sStart (statusIgnored c b)) ∨
    (statusCode c b = c.codeRepeatedStart ∧ decodeStatus c b = .sRepeatedStart (statusIgnored c b)) ∨
    (statusCode c b = c.codeWriteAddressAck ∧ decodeStatus c b = .sWriteAddressAck (statusIgnored c b)) ∨
    (statusCode c b = c.codeWriteDataAck ∧ decodeStatus c b = .sWriteDataAck (statusIgnored c b)) ∨
    (statusCode c b = c.codeReadAddressAck ∧ decodeStatus c b = .sReadAddressAck (statusIgnored c b)) ∨
    (statusCode c b = c.codeReadDataAck ∧ decodeStatus c b = .sReadDataAck (statusIgnored c b)) ∨
    (statusCode c b = c.codeReadDataNack ∧ decodeStatus c b = .sReadDataNack (statusIgnored c b)) ∨
    (statusCode c b = c.codeArbitrationLost ∧ decodeStatus c b = .sArbitrationLost (statusIgnored c b)) ∨
    (statusCode c b = c.codeWriteAddressNack ∧ decodeStatus c b = .sWriteAddressNack (statusIgnored c b)) ∨
    (statusCode c b = c.codeReadAddressNack ∧ decodeStatus c b = .sReadAddressNack (statusIgnored c b)) ∨
    (statusCode c b = c.codeWriteDataNack ∧ decodeStatus c b = .sWriteDataNack (statusIgnored c b)) ∨
    (statusCode c b = c.codeBusError ∧ decodeStatus c b = .sBusError (statusIgnored c b)) ∨
    (statusCode c b ∉ c.dispatchCodes ∧
      decodeStatus c b = .sUnrecognized (statusCode c b) (statusIgnored c b)) := by
  have hd := decodeStatus.eq_def c b
  simp only at hd
  generalize decodeStatus c b = d at hd ⊢
  by_cases h1 : statusCode c b = c.codeStart
  · exact .inl ⟨h1, by rw [hd, if_pos h1]⟩
  rw [if_neg h1] at hd
  refine .inr ?_
  by_cases h2 : statusCode c b = c.codeRepeatedStart
  · exact .inl ⟨h2, by rw [hd, if_pos h2]⟩
  rw [if_neg h2] at hd
  refine .inr ?_
  by_cases h3 : statusCode c b = c.codeWriteAddressAck
  · exact .inl ⟨h3, by rw [hd, if_pos h3]⟩
  rw [if_neg h3] at hd
  refine .inr ?_
  by_cases h4 : statusCode c b = c.codeWriteDataAck
  · exact .inl ⟨h4, by rw [hd, if_pos h4]⟩
  rw [if_neg h4] at hd
  refine .inr ?_
  by_cases h5 : statusCode c b = c.codeReadAddressAck
  · exact .inl ⟨h5, by rw [hd, if_pos h5]⟩
  rw [if_neg h5] at hd
  refine .inr ?_
  by_cases h6 : statusCode c b = c.codeReadDataAck
  · exact .inl ⟨h6, by rw [hd, if_pos h6]⟩
  rw [if_neg h6] at hd
  refine .inr ?_
  by_cases h7 : statusCode c b = c.codeReadDataNack
  · exact .inl ⟨h7, by rw [hd, if_pos h7]⟩
  rw [if_neg h7] at hd
  refine .inr ?_
  by_cases h8 : statusCode c b = c.codeArbitrationLost
  · exact .inl ⟨h8, by rw [hd, if_pos h8]⟩
  rw [if_neg h8] at hd
  refine .inr ?_
  by_cases h9 : statusCode c b = c.codeWriteAddressNack
  · exact .inl ⟨h9, by rw [hd, if_pos h9]⟩
  rw [if_neg h9] at hd
  refine .inr ?_
  by_cases h10 : statusCode c b = c.codeReadAddressNack
  · exact .inl ⟨h10, by rw [hd, if_pos h10]⟩
  rw [if_neg h10] at hd
  refine .inr ?_
  by_cases h11 : statusCode c b = c.codeWriteDataNack
  · exact .inl ⟨h11, by rw [hd, if_pos h11]⟩
  rw [if_neg h11] at hd
  refine .inr ?_
  by_cases h12 : statusCode c b = c.codeBusError
  · exact .inl ⟨h12, by rw [hd, if_pos h12]⟩
  rw [if_neg h12] at hd
  refine .inr ?_
  refine ⟨?_, hd⟩
  simp only [Cfg.dispatchCodes, List.mem_cons, List.not_mem_nil, or_false, not_or]
  exact ⟨h1, h2, h3, h4, h5, h6, h7, h8, h9, h10, h11, h12⟩

/-- What a status byte decodes to is well formed. -/
theorem decodeStatus_wellFormed (c : Cfg) (b : Byte) : (decodeStatus c b).WellFormed c := by
  have hi := statusIgnored_isIgnored c b
  rcases decodeStatus_cases c b with
    ⟨_, e⟩ | ⟨_, e⟩ | ⟨_, e⟩ | ⟨_, e⟩ | ⟨_, e⟩ | ⟨_, e⟩ | ⟨_, e⟩ | ⟨_, e⟩ | ⟨_, e⟩ | ⟨_, e⟩ | ⟨_, e⟩ | ⟨_, e⟩ | ⟨h, e⟩ <;> rw [e]
  all_goals first
    | exact hi
    | exact ⟨⟨statusCode_masked c b, h⟩, hi⟩

/-- Under valid parameters no later code of 30_encoding.md R92 equals an earlier one. -/
theorem Cfg.Valid.later_ne {c : Cfg} (v : c.Valid) :
    c.dispatchCodes.Pairwise fun x y => y ≠ x := v.codesDistinct.imp fun h => Ne.symm h

/-! Each named code with any ignored bits decodes to its own class (30_encoding.md R91, R92). -/

variable {c : Cfg} {ign : Byte}

theorem decodeStatus_codeStart (v : c.Valid) (hi : c.IsIgnored ign) :
    decodeStatus c (c.codeStart ||| ign) = .sStart ign := by
  have m : c.codeStart &&& c.statusMask = c.codeStart := v.masked (by simp [Cfg.dispatchCodes])
  simp [decodeStatus, statusCode_or m hi, statusIgnored_or m hi]

theorem decodeStatus_codeRepeatedStart (v : c.Valid) (hi : c.IsIgnored ign) :
    decodeStatus c (c.codeRepeatedStart ||| ign) = .sRepeatedStart ign := by
  have d := v.later_ne
  simp only [Cfg.dispatchCodes, List.pairwise_cons, List.mem_cons, List.not_mem_nil, or_false,
    forall_eq_or_imp, forall_eq] at d
  have m : c.codeRepeatedStart &&& c.statusMask = c.codeRepeatedStart := v.masked (by simp [Cfg.dispatchCodes])
  simp [decodeStatus, statusCode_or m hi, statusIgnored_or m hi, d]

theorem decodeStatus_codeWriteAddressAck (v : c.Valid) (hi : c.IsIgnored ign) :
    decodeStatus c (c.codeWriteAddressAck ||| ign) = .sWriteAddressAck ign := by
  have d := v.later_ne
  simp only [Cfg.dispatchCodes, List.pairwise_cons, List.mem_cons, List.not_mem_nil, or_false,
    forall_eq_or_imp, forall_eq] at d
  have m : c.codeWriteAddressAck &&& c.statusMask = c.codeWriteAddressAck := v.masked (by simp [Cfg.dispatchCodes])
  simp [decodeStatus, statusCode_or m hi, statusIgnored_or m hi, d]

theorem decodeStatus_codeWriteDataAck (v : c.Valid) (hi : c.IsIgnored ign) :
    decodeStatus c (c.codeWriteDataAck ||| ign) = .sWriteDataAck ign := by
  have d := v.later_ne
  simp only [Cfg.dispatchCodes, List.pairwise_cons, List.mem_cons, List.not_mem_nil, or_false,
    forall_eq_or_imp, forall_eq] at d
  have m : c.codeWriteDataAck &&& c.statusMask = c.codeWriteDataAck := v.masked (by simp [Cfg.dispatchCodes])
  simp [decodeStatus, statusCode_or m hi, statusIgnored_or m hi, d]

theorem decodeStatus_codeReadAddressAck (v : c.Valid) (hi : c.IsIgnored ign) :
    decodeStatus c (c.codeReadAddressAck ||| ign) = .sReadAddressAck ign := by
  have d := v.later_ne
  simp only [Cfg.dispatchCodes, List.pairwise_cons, List.mem_cons, List.not_mem_nil, or_false,
    forall_eq_or_imp, forall_eq] at d
  have m : c.codeReadAddressAck &&& c.statusMask = c.codeReadAddressAck := v.masked (by simp [Cfg.dispatchCodes])
  simp [decodeStatus, statusCode_or m hi, statusIgnored_or m hi, d]

theorem decodeStatus_codeReadDataAck (v : c.Valid) (hi : c.IsIgnored ign) :
    decodeStatus c (c.codeReadDataAck ||| ign) = .sReadDataAck ign := by
  have d := v.later_ne
  simp only [Cfg.dispatchCodes, List.pairwise_cons, List.mem_cons, List.not_mem_nil, or_false,
    forall_eq_or_imp, forall_eq] at d
  have m : c.codeReadDataAck &&& c.statusMask = c.codeReadDataAck := v.masked (by simp [Cfg.dispatchCodes])
  simp [decodeStatus, statusCode_or m hi, statusIgnored_or m hi, d]

theorem decodeStatus_codeReadDataNack (v : c.Valid) (hi : c.IsIgnored ign) :
    decodeStatus c (c.codeReadDataNack ||| ign) = .sReadDataNack ign := by
  have d := v.later_ne
  simp only [Cfg.dispatchCodes, List.pairwise_cons, List.mem_cons, List.not_mem_nil, or_false,
    forall_eq_or_imp, forall_eq] at d
  have m : c.codeReadDataNack &&& c.statusMask = c.codeReadDataNack := v.masked (by simp [Cfg.dispatchCodes])
  simp [decodeStatus, statusCode_or m hi, statusIgnored_or m hi, d]

theorem decodeStatus_codeArbitrationLost (v : c.Valid) (hi : c.IsIgnored ign) :
    decodeStatus c (c.codeArbitrationLost ||| ign) = .sArbitrationLost ign := by
  have d := v.later_ne
  simp only [Cfg.dispatchCodes, List.pairwise_cons, List.mem_cons, List.not_mem_nil, or_false,
    forall_eq_or_imp, forall_eq] at d
  have m : c.codeArbitrationLost &&& c.statusMask = c.codeArbitrationLost := v.masked (by simp [Cfg.dispatchCodes])
  simp [decodeStatus, statusCode_or m hi, statusIgnored_or m hi, d]

theorem decodeStatus_codeWriteAddressNack (v : c.Valid) (hi : c.IsIgnored ign) :
    decodeStatus c (c.codeWriteAddressNack ||| ign) = .sWriteAddressNack ign := by
  have d := v.later_ne
  simp only [Cfg.dispatchCodes, List.pairwise_cons, List.mem_cons, List.not_mem_nil, or_false,
    forall_eq_or_imp, forall_eq] at d
  have m : c.codeWriteAddressNack &&& c.statusMask = c.codeWriteAddressNack := v.masked (by simp [Cfg.dispatchCodes])
  simp [decodeStatus, statusCode_or m hi, statusIgnored_or m hi, d]

theorem decodeStatus_codeReadAddressNack (v : c.Valid) (hi : c.IsIgnored ign) :
    decodeStatus c (c.codeReadAddressNack ||| ign) = .sReadAddressNack ign := by
  have d := v.later_ne
  simp only [Cfg.dispatchCodes, List.pairwise_cons, List.mem_cons, List.not_mem_nil, or_false,
    forall_eq_or_imp, forall_eq] at d
  have m : c.codeReadAddressNack &&& c.statusMask = c.codeReadAddressNack := v.masked (by simp [Cfg.dispatchCodes])
  simp [decodeStatus, statusCode_or m hi, statusIgnored_or m hi, d]

theorem decodeStatus_codeWriteDataNack (v : c.Valid) (hi : c.IsIgnored ign) :
    decodeStatus c (c.codeWriteDataNack ||| ign) = .sWriteDataNack ign := by
  have d := v.later_ne
  simp only [Cfg.dispatchCodes, List.pairwise_cons, List.mem_cons, List.not_mem_nil, or_false,
    forall_eq_or_imp, forall_eq] at d
  have m : c.codeWriteDataNack &&& c.statusMask = c.codeWriteDataNack := v.masked (by simp [Cfg.dispatchCodes])
  simp [decodeStatus, statusCode_or m hi, statusIgnored_or m hi, d]

theorem decodeStatus_codeBusError (v : c.Valid) (hi : c.IsIgnored ign) :
    decodeStatus c (c.codeBusError ||| ign) = .sBusError ign := by
  have d := v.later_ne
  simp only [Cfg.dispatchCodes, List.pairwise_cons, List.mem_cons, List.not_mem_nil, or_false,
    forall_eq_or_imp, forall_eq] at d
  have m : c.codeBusError &&& c.statusMask = c.codeBusError := v.masked (by simp [Cfg.dispatchCodes])
  simp [decodeStatus, statusCode_or m hi, statusIgnored_or m hi, d]

theorem decodeStatus_unrecognized {code : Byte} (hc : c.IsUnrecognized code)
    (hi : c.IsIgnored ign) : decodeStatus c (code ||| ign) = .sUnrecognized code ign := by
  obtain ⟨m, d⟩ := hc
  simp only [Cfg.dispatchCodes, List.mem_cons, List.not_mem_nil, or_false, not_or] at d
  simp [decodeStatus, statusCode_or m hi, statusIgnored_or m hi, d]

end Sys2Proof
end

