-- ==== Sys2Proof/Laws/Memory.lean ====
section
/-! SUPPORT. The laws of the buffer space: a read after a write or a free, and that every memory
operation keeps the canonical form. -/

namespace Sys2Proof.Machine.Memory

theorem read_nil (a : Nat) : read [] a = none := rfl

theorem read_cons (b : Nat) (w : Byte) (m : Memory) (a : Nat) :
    read ((b, w) :: m) a = if a = b then some w else read m a := rfl

/-- Below every listed address nothing is allocated. -/
theorem read_eq_none_of_lt {m : Memory} {a : Nat} (h : ∀ x ∈ m, a < x.1) : read m a = none := by
  induction m with
  | nil => rfl
  | cons x m ih =>
    have hx := h x (by simp)
    rw [read_cons, if_neg (by omega)]
    exact ih fun y hy => h y (by simp [hy])

@[simp] theorem read_write_same (m : Memory) (a : Nat) (v : Byte) :
    read (write m a v) a = some v := by
  induction m with
  | nil => simp [write, read]
  | cons x m ih =>
    unfold write
    split
    · simp [read]
    · split
      · simp [read]
      · rename_i h; simp [read, h, ih]

theorem read_write_other (m : Memory) {a b : Nat} (v : Byte) (h : b ≠ a) :
    read (write m a v) b = read m b := by
  induction m with
  | nil => simp [write, read, h]
  | cons x m ih =>
    unfold write
    split
    · simp [read, h]
    · split
      · rename_i e; subst e; simp [read, h]
      · simp [read, ih]

theorem read_write (m : Memory) (a b : Nat) (v : Byte) :
    read (write m a v) b = if b = a then some v else read m b := by
  split
  · rename_i h; subst h; simp
  · rename_i h; exact read_write_other m v h

theorem read_erase_other (m : Memory) {a b : Nat} (h : b ≠ a) :
    read (erase m a) b = read m b := by
  induction m with
  | nil => rfl
  | cons x m ih =>
    unfold erase
    split
    · rename_i e; subst e; simp [read, h]
    · simp [read, ih]

theorem read_erase_same {m : Memory} (wf : Memory.wf m) (a : Nat) : read (erase m a) a = none := by
  induction m with
  | nil => rfl
  | cons x m ih =>
    have wf' := List.pairwise_cons.1 wf
    unfold erase
    split
    · rename_i e
      subst e
      exact read_eq_none_of_lt wf'.1
    · rename_i h
      rw [read_cons, if_neg h]
      exact ih wf'.2

theorem mem_write {m : Memory} {a : Nat} {v : Byte} {x : Host.Cell} (h : x ∈ write m a v) :
    x = (a, v) ∨ x ∈ m := by
  induction m with
  | nil => simpa [write] using h
  | cons y m ih =>
    unfold write at h
    split at h
    · simpa using h
    · split at h
      · rcases List.mem_cons.1 h with h | h
        · exact .inl h
        · exact .inr (by simp [h])
      · rcases List.mem_cons.1 h with h | h
        · exact .inr (by simp [h])
        · rcases ih h with h | h
          · exact .inl h
          · exact .inr (by simp [h])

theorem mem_erase {m : Memory} {a : Nat} {x : Host.Cell} (h : x ∈ erase m a) : x ∈ m := by
  induction m with
  | nil => exact h
  | cons y m ih =>
    unfold erase at h
    split at h
    · simp [h]
    · rcases List.mem_cons.1 h with h | h
      · simp [h]
      · simp [ih h]

/-- A store keeps the canonical form. -/
theorem wf_write {m : Memory} (wf : Memory.wf m) (a : Nat) (v : Byte) :
    Memory.wf (write m a v) := by
  induction m with
  | nil => simp [write, Memory.wf]
  | cons x m ih =>
    have wf' := List.pairwise_cons.1 wf
    unfold write
    split
    · rename_i h
      refine List.pairwise_cons.2 ⟨fun y hy => ?_, wf⟩
      rcases List.mem_cons.1 hy with rfl | hy
      · exact h
      · exact Nat.lt_trans h (wf'.1 y hy)
    · split
      · rename_i e
        subst e
        exact List.pairwise_cons.2 wf'
      · rename_i h1 h2
        refine List.pairwise_cons.2 ⟨fun y hy => ?_, ih wf'.2⟩
        rcases mem_write hy with rfl | hy
        · exact Nat.lt_of_le_of_ne (Nat.le_of_not_lt h1) (Ne.symm h2)
        · exact wf'.1 y hy

/-- A free keeps the canonical form. -/
theorem wf_erase {m : Memory} (wf : Memory.wf m) (a : Nat) : Memory.wf (erase m a) := by
  induction m with
  | nil => exact wf
  | cons x m ih =>
    have wf' := List.pairwise_cons.1 wf
    unfold erase
    split
    · exact wf'.2
    · exact List.pairwise_cons.2 ⟨fun y hy => wf'.1 y (mem_erase hy), ih wf'.2⟩

/-- Storing to an allocated address allocates nothing new and frees nothing. -/
theorem isSome_read_write {m : Memory} {a : Nat} (v : Byte) (h : (read m a).isSome = true) (b : Nat) :
    (read (write m a v) b).isSome = (read m b).isSome := by
  rw [read_write]
  split
  · rename_i e; subst e; simp [h]
  · rfl

end Sys2Proof.Machine.Memory
end

