-- ==== Sys2Proof/Laws/State.lean ====
section
/-! SUPPORT. One lemma per field per named update of the state, so that no later proof unfolds an
update. -/

namespace Sys2Proof.Machine

variable (s : State)

/-! `State.log` -/

@[simp] theorem State.log_cfg (e : TraceEvent) : (State.log e s).cfg = s.cfg := rfl
@[simp] theorem State.log_buf (e : TraceEvent) : (State.log e s).buf = s.buf := rfl
@[simp] theorem State.log_len (e : TraceEvent) : (State.log e s).len = s.len := rfl
@[simp] theorem State.log_cur (e : TraceEvent) : (State.log e s).cur = s.cur := rfl
@[simp] theorem State.log_ok (e : TraceEvent) : (State.log e s).ok = s.ok := rfl
@[simp] theorem State.log_state (e : TraceEvent) : (State.log e s).state = s.state := rfl
@[simp] theorem State.log_errcnt (e : TraceEvent) : (State.log e s).errcnt = s.errcnt := rfl
@[simp] theorem State.log_cr (e : TraceEvent) : (State.log e s).cr = s.cr := rfl
@[simp] theorem State.log_sr (e : TraceEvent) : (State.log e s).sr = s.sr := rfl
@[simp] theorem State.log_dr (e : TraceEvent) : (State.log e s).dr = s.dr := rfl
@[simp] theorem State.log_br (e : TraceEvent) : (State.log e s).br = s.br := rfl
@[simp] theorem State.log_port (e : TraceEvent) : (State.log e s).port = s.port := rfl
@[simp] theorem State.log_iflag (e : TraceEvent) : (State.log e s).iflag = s.iflag := rfl
@[simp] theorem State.log_armed (e : TraceEvent) : (State.log e s).armed = s.armed := rfl
@[simp] theorem State.log_fop (e : TraceEvent) : (State.log e s).fop = s.fop := rfl
@[simp] theorem State.log_fpc (e : TraceEvent) : (State.log e s).fpc = s.fpc := rfl
@[simp] theorem State.log_wcnt (e : TraceEvent) : (State.log e s).wcnt = s.wcnt := rfl
@[simp] theorem State.log_aBuf (e : TraceEvent) : (State.log e s).aBuf = s.aBuf := rfl
@[simp] theorem State.log_aLen (e : TraceEvent) : (State.log e s).aLen = s.aLen := rfl
@[simp] theorem State.log_tOk (e : TraceEvent) : (State.log e s).tOk = s.tOk := rfl
@[simp] theorem State.log_hc (e : TraceEvent) : (State.log e s).hc = s.hc := rfl
@[simp] theorem State.log_hr (e : TraceEvent) : (State.log e s).hr = s.hr := rfl
@[simp] theorem State.log_mem (e : TraceEvent) : (State.log e s).mem = s.mem := rfl
@[simp] theorem State.log_tr (e : TraceEvent) : (State.log e s).tr = s.tr ++ [e] := rfl
@[simp] theorem State.log_elapsed (e : TraceEvent) : (State.log e s).elapsed = s.elapsed := rfl
@[simp] theorem State.log_lastDr (e : TraceEvent) : (State.log e s).lastDr = s.lastDr := rfl
@[simp] theorem State.log_refBus (e : TraceEvent) : (State.log e s).refBus = s.refBus := rfl
@[simp] theorem State.log_pending (e : TraceEvent) : (State.log e s).pending = s.pending := rfl
@[simp] theorem State.log_draws (e : TraceEvent) : (State.log e s).draws = s.draws := rfl

/-! `State.writeCR` -/

@[simp] theorem State.writeCR_cfg (w : CmdWord) : (State.writeCR w s).cfg = s.cfg := rfl
@[simp] theorem State.writeCR_buf (w : CmdWord) : (State.writeCR w s).buf = s.buf := rfl
@[simp] theorem State.writeCR_len (w : CmdWord) : (State.writeCR w s).len = s.len := rfl
@[simp] theorem State.writeCR_cur (w : CmdWord) : (State.writeCR w s).cur = s.cur := rfl
@[simp] theorem State.writeCR_ok (w : CmdWord) : (State.writeCR w s).ok = s.ok := rfl
@[simp] theorem State.writeCR_state (w : CmdWord) : (State.writeCR w s).state = s.state := rfl
@[simp] theorem State.writeCR_errcnt (w : CmdWord) : (State.writeCR w s).errcnt = s.errcnt := rfl
@[simp] theorem State.writeCR_cr (w : CmdWord) :
    (State.writeCR w s).cr = ⟨w.fields.en, w.fields.ie, w.fields.ea, w.fields.sta, w.fields.sto⟩ := rfl
@[simp] theorem State.writeCR_sr (w : CmdWord) : (State.writeCR w s).sr = s.sr := rfl
@[simp] theorem State.writeCR_dr (w : CmdWord) : (State.writeCR w s).dr = s.dr := rfl
@[simp] theorem State.writeCR_br (w : CmdWord) : (State.writeCR w s).br = s.br := rfl
@[simp] theorem State.writeCR_port (w : CmdWord) : (State.writeCR w s).port = s.port := rfl
@[simp] theorem State.writeCR_iflag (w : CmdWord) :
    (State.writeCR w s).iflag = if w.fields.ifc then false else s.iflag := rfl
@[simp] theorem State.writeCR_armed (w : CmdWord) :
    (State.writeCR w s).armed = (w.fields.en && w.fields.ifc && !w.fields.sto) := rfl
@[simp] theorem State.writeCR_fop (w : CmdWord) : (State.writeCR w s).fop = s.fop := rfl
@[simp] theorem State.writeCR_fpc (w : CmdWord) : (State.writeCR w s).fpc = s.fpc := rfl
@[simp] theorem State.writeCR_wcnt (w : CmdWord) : (State.writeCR w s).wcnt = s.wcnt := rfl
@[simp] theorem State.writeCR_aBuf (w : CmdWord) : (State.writeCR w s).aBuf = s.aBuf := rfl
@[simp] theorem State.writeCR_aLen (w : CmdWord) : (State.writeCR w s).aLen = s.aLen := rfl
@[simp] theorem State.writeCR_tOk (w : CmdWord) : (State.writeCR w s).tOk = s.tOk := rfl
@[simp] theorem State.writeCR_hc (w : CmdWord) : (State.writeCR w s).hc = s.hc := rfl
@[simp] theorem State.writeCR_hr (w : CmdWord) : (State.writeCR w s).hr = s.hr := rfl
@[simp] theorem State.writeCR_mem (w : CmdWord) : (State.writeCR w s).mem = s.mem := rfl
@[simp] theorem State.writeCR_tr (w : CmdWord) :
    (State.writeCR w s).tr = s.tr ++ [.wrCR (w.byte s.cfg)] := rfl
@[simp] theorem State.writeCR_elapsed (w : CmdWord) : (State.writeCR w s).elapsed = s.elapsed := rfl
@[simp] theorem State.writeCR_lastDr (w : CmdWord) : (State.writeCR w s).lastDr = s.lastDr := rfl
@[simp] theorem State.writeCR_refBus (w : CmdWord) : (State.writeCR w s).refBus = s.refBus := rfl
@[simp] theorem State.writeCR_pending (w : CmdWord) : (State.writeCR w s).pending = s.pending := rfl
@[simp] theorem State.writeCR_draws (w : CmdWord) : (State.writeCR w s).draws = s.draws := rfl

/-! `State.writeDR` -/

@[simp] theorem State.writeDR_cfg (b : Byte) : (State.writeDR b s).cfg = s.cfg := rfl
@[simp] theorem State.writeDR_buf (b : Byte) : (State.writeDR b s).buf = s.buf := rfl
@[simp] theorem State.writeDR_len (b : Byte) : (State.writeDR b s).len = s.len := rfl
@[simp] theorem State.writeDR_cur (b : Byte) : (State.writeDR b s).cur = s.cur := rfl
@[simp] theorem State.writeDR_ok (b : Byte) : (State.writeDR b s).ok = s.ok := rfl
@[simp] theorem State.writeDR_state (b : Byte) : (State.writeDR b s).state = s.state := rfl
@[simp] theorem State.writeDR_errcnt (b : Byte) : (State.writeDR b s).errcnt = s.errcnt := rfl
@[simp] theorem State.writeDR_cr (b : Byte) : (State.writeDR b s).cr = s.cr := rfl
@[simp] theorem State.writeDR_sr (b : Byte) : (State.writeDR b s).sr = s.sr := rfl
@[simp] theorem State.writeDR_dr (b : Byte) : (State.writeDR b s).dr = b := rfl
@[simp] theorem State.writeDR_br (b : Byte) : (State.writeDR b s).br = s.br := rfl
@[simp] theorem State.writeDR_port (b : Byte) : (State.writeDR b s).port = s.port := rfl
@[simp] theorem State.writeDR_iflag (b : Byte) : (State.writeDR b s).iflag = s.iflag := rfl
@[simp] theorem State.writeDR_armed (b : Byte) : (State.writeDR b s).armed = s.armed := rfl
@[simp] theorem State.writeDR_fop (b : Byte) : (State.writeDR b s).fop = s.fop := rfl
@[simp] theorem State.writeDR_fpc (b : Byte) : (State.writeDR b s).fpc = s.fpc := rfl
@[simp] theorem State.writeDR_wcnt (b : Byte) : (State.writeDR b s).wcnt = s.wcnt := rfl
@[simp] theorem State.writeDR_aBuf (b : Byte) : (State.writeDR b s).aBuf = s.aBuf := rfl
@[simp] theorem State.writeDR_aLen (b : Byte) : (State.writeDR b s).aLen = s.aLen := rfl
@[simp] theorem State.writeDR_tOk (b : Byte) : (State.writeDR b s).tOk = s.tOk := rfl
@[simp] theorem State.writeDR_hc (b : Byte) : (State.writeDR b s).hc = s.hc := rfl
@[simp] theorem State.writeDR_hr (b : Byte) : (State.writeDR b s).hr = s.hr := rfl
@[simp] theorem State.writeDR_mem (b : Byte) : (State.writeDR b s).mem = s.mem := rfl
@[simp] theorem State.writeDR_tr (b : Byte) : (State.writeDR b s).tr = s.tr ++ [.wrDR b] := rfl
@[simp] theorem State.writeDR_elapsed (b : Byte) : (State.writeDR b s).elapsed = s.elapsed := rfl
@[simp] theorem State.writeDR_lastDr (b : Byte) : (State.writeDR b s).lastDr = b := rfl
@[simp] theorem State.writeDR_refBus (b : Byte) : (State.writeDR b s).refBus = s.refBus := rfl
@[simp] theorem State.writeDR_pending (b : Byte) : (State.writeDR b s).pending = s.pending := rfl
@[simp] theorem State.writeDR_draws (b : Byte) : (State.writeDR b s).draws = s.draws := rfl

/-! `State.writeBR` -/

@[simp] theorem State.writeBR_cfg (b : Byte) : (State.writeBR b s).cfg = s.cfg := rfl
@[simp] theorem State.writeBR_buf (b : Byte) : (State.writeBR b s).buf = s.buf := rfl
@[simp] theorem State.writeBR_len (b : Byte) : (State.writeBR b s).len = s.len := rfl
@[simp] theorem State.writeBR_cur (b : Byte) : (State.writeBR b s).cur = s.cur := rfl
@[simp] theorem State.writeBR_ok (b : Byte) : (State.writeBR b s).ok = s.ok := rfl
@[simp] theorem State.writeBR_state (b : Byte) : (State.writeBR b s).state = s.state := rfl
@[simp] theorem State.writeBR_errcnt (b : Byte) : (State.writeBR b s).errcnt = s.errcnt := rfl
@[simp] theorem State.writeBR_cr (b : Byte) : (State.writeBR b s).cr = s.cr := rfl
@[simp] theorem State.writeBR_sr (b : Byte) : (State.writeBR b s).sr = s.sr := rfl
@[simp] theorem State.writeBR_dr (b : Byte) : (State.writeBR b s).dr = s.dr := rfl
@[simp] theorem State.writeBR_br (b : Byte) : (State.writeBR b s).br = b := rfl
@[simp] theorem State.writeBR_port (b : Byte) : (State.writeBR b s).port = s.port := rfl
@[simp] theorem State.writeBR_iflag (b : Byte) : (State.writeBR b s).iflag = s.iflag := rfl
@[simp] theorem State.writeBR_armed (b : Byte) : (State.writeBR b s).armed = s.armed := rfl
@[simp] theorem State.writeBR_fop (b : Byte) : (State.writeBR b s).fop = s.fop := rfl
@[simp] theorem State.writeBR_fpc (b : Byte) : (State.writeBR b s).fpc = s.fpc := rfl
@[simp] theorem State.writeBR_wcnt (b : Byte) : (State.writeBR b s).wcnt = s.wcnt := rfl
@[simp] theorem State.writeBR_aBuf (b : Byte) : (State.writeBR b s).aBuf = s.aBuf := rfl
@[simp] theorem State.writeBR_aLen (b : Byte) : (State.writeBR b s).aLen = s.aLen := rfl
@[simp] theorem State.writeBR_tOk (b : Byte) : (State.writeBR b s).tOk = s.tOk := rfl
@[simp] theorem State.writeBR_hc (b : Byte) : (State.writeBR b s).hc = s.hc := rfl
@[simp] theorem State.writeBR_hr (b : Byte) : (State.writeBR b s).hr = s.hr := rfl
@[simp] theorem State.writeBR_mem (b : Byte) : (State.writeBR b s).mem = s.mem := rfl
@[simp] theorem State.writeBR_tr (b : Byte) : (State.writeBR b s).tr = s.tr ++ [.wrBR b] := rfl
@[simp] theorem State.writeBR_elapsed (b : Byte) : (State.writeBR b s).elapsed = s.elapsed := rfl
@[simp] theorem State.writeBR_lastDr (b : Byte) : (State.writeBR b s).lastDr = s.lastDr := rfl
@[simp] theorem State.writeBR_refBus (b : Byte) : (State.writeBR b s).refBus = s.refBus := rfl
@[simp] theorem State.writeBR_pending (b : Byte) : (State.writeBR b s).pending = s.pending := rfl
@[simp] theorem State.writeBR_draws (b : Byte) : (State.writeBR b s).draws = s.draws := rfl

/-! `State.writePORT` -/

@[simp] theorem State.writePORT_cfg (b : Bool) : (State.writePORT b s).cfg = s.cfg := rfl
@[simp] theorem State.writePORT_buf (b : Bool) : (State.writePORT b s).buf = s.buf := rfl
@[simp] theorem State.writePORT_len (b : Bool) : (State.writePORT b s).len = s.len := rfl
@[simp] theorem State.writePORT_cur (b : Bool) : (State.writePORT b s).cur = s.cur := rfl
@[simp] theorem State.writePORT_ok (b : Bool) : (State.writePORT b s).ok = s.ok := rfl
@[simp] theorem State.writePORT_state (b : Bool) : (State.writePORT b s).state = s.state := rfl
@[simp] theorem State.writePORT_errcnt (b : Bool) : (State.writePORT b s).errcnt = s.errcnt := rfl
@[simp] theorem State.writePORT_cr (b : Bool) : (State.writePORT b s).cr = s.cr := rfl
@[simp] theorem State.writePORT_sr (b : Bool) : (State.writePORT b s).sr = s.sr := rfl
@[simp] theorem State.writePORT_dr (b : Bool) : (State.writePORT b s).dr = s.dr := rfl
@[simp] theorem State.writePORT_br (b : Bool) : (State.writePORT b s).br = s.br := rfl
@[simp] theorem State.writePORT_port (b : Bool) : (State.writePORT b s).port = b := rfl
@[simp] theorem State.writePORT_iflag (b : Bool) : (State.writePORT b s).iflag = s.iflag := rfl
@[simp] theorem State.writePORT_armed (b : Bool) : (State.writePORT b s).armed = s.armed := rfl
@[simp] theorem State.writePORT_fop (b : Bool) : (State.writePORT b s).fop = s.fop := rfl
@[simp] theorem State.writePORT_fpc (b : Bool) : (State.writePORT b s).fpc = s.fpc := rfl
@[simp] theorem State.writePORT_wcnt (b : Bool) : (State.writePORT b s).wcnt = s.wcnt := rfl
@[simp] theorem State.writePORT_aBuf (b : Bool) : (State.writePORT b s).aBuf = s.aBuf := rfl
@[simp] theorem State.writePORT_aLen (b : Bool) : (State.writePORT b s).aLen = s.aLen := rfl
@[simp] theorem State.writePORT_tOk (b : Bool) : (State.writePORT b s).tOk = s.tOk := rfl
@[simp] theorem State.writePORT_hc (b : Bool) : (State.writePORT b s).hc = s.hc := rfl
@[simp] theorem State.writePORT_hr (b : Bool) : (State.writePORT b s).hr = s.hr := rfl
@[simp] theorem State.writePORT_mem (b : Bool) : (State.writePORT b s).mem = s.mem := rfl
@[simp] theorem State.writePORT_tr (b : Bool) :
    (State.writePORT b s).tr = s.tr ++ [.wrPORT b] := rfl
@[simp] theorem State.writePORT_elapsed (b : Bool) :
    (State.writePORT b s).elapsed = s.elapsed := rfl
@[simp] theorem State.writePORT_lastDr (b : Bool) : (State.writePORT b s).lastDr = s.lastDr := rfl
@[simp] theorem State.writePORT_refBus (b : Bool) : (State.writePORT b s).refBus = s.refBus := rfl
@[simp] theorem State.writePORT_pending (b : Bool) :
    (State.writePORT b s).pending = s.pending := rfl
@[simp] theorem State.writePORT_draws (b : Bool) : (State.writePORT b s).draws = s.draws := rfl

/-! `beginCommand` -/

@[simp] theorem beginCommand_cfg (op : Fop) (l : Fpc) (a : Option (Nat × Nat)) :
    (beginCommand op l a s).cfg = s.cfg := rfl
@[simp] theorem beginCommand_buf (op : Fop) (l : Fpc) (a : Option (Nat × Nat)) :
    (beginCommand op l a s).buf = s.buf := rfl
@[simp] theorem beginCommand_len (op : Fop) (l : Fpc) (a : Option (Nat × Nat)) :
    (beginCommand op l a s).len = s.len := rfl
@[simp] theorem beginCommand_cur (op : Fop) (l : Fpc) (a : Option (Nat × Nat)) :
    (beginCommand op l a s).cur = s.cur := rfl
@[simp] theorem beginCommand_ok (op : Fop) (l : Fpc) (a : Option (Nat × Nat)) :
    (beginCommand op l a s).ok = s.ok := rfl
@[simp] theorem beginCommand_state (op : Fop) (l : Fpc) (a : Option (Nat × Nat)) :
    (beginCommand op l a s).state = s.state := rfl
@[simp] theorem beginCommand_errcnt (op : Fop) (l : Fpc) (a : Option (Nat × Nat)) :
    (beginCommand op l a s).errcnt = s.errcnt := rfl
@[simp] theorem beginCommand_cr (op : Fop) (l : Fpc) (a : Option (Nat × Nat)) :
    (beginCommand op l a s).cr = s.cr := rfl
@[simp] theorem beginCommand_sr (op : Fop) (l : Fpc) (a : Option (Nat × Nat)) :
    (beginCommand op l a s).sr = s.sr := rfl
@[simp] theorem beginCommand_dr (op : Fop) (l : Fpc) (a : Option (Nat × Nat)) :
    (beginCommand op l a s).dr = s.dr := rfl
@[simp] theorem beginCommand_br (op : Fop) (l : Fpc) (a : Option (Nat × Nat)) :
    (beginCommand op l a s).br = s.br := rfl
@[simp] theorem beginCommand_port (op : Fop) (l : Fpc) (a : Option (Nat × Nat)) :
    (beginCommand op l a s).port = s.port := rfl
@[simp] theorem beginCommand_iflag (op : Fop) (l : Fpc) (a : Option (Nat × Nat)) :
    (beginCommand op l a s).iflag = s.iflag := rfl
@[simp] theorem beginCommand_armed (op : Fop) (l : Fpc) (a : Option (Nat × Nat)) :
    (beginCommand op l a s).armed = s.armed := rfl
@[simp] theorem beginCommand_fop (op : Fop) (l : Fpc) (a : Option (Nat × Nat)) :
    (beginCommand op l a s).fop = op := rfl
@[simp] theorem beginCommand_fpc (op : Fop) (l : Fpc) (a : Option (Nat × Nat)) :
    (beginCommand op l a s).fpc = l := rfl
@[simp] theorem beginCommand_wcnt (op : Fop) (l : Fpc) (a : Option (Nat × Nat)) :
    (beginCommand op l a s).wcnt = s.wcnt := rfl
@[simp] theorem beginCommand_aBuf (op : Fop) (l : Fpc) (a : Option (Nat × Nat)) :
    (beginCommand op l a s).aBuf = s.aBuf := rfl
@[simp] theorem beginCommand_aLen (op : Fop) (l : Fpc) (a : Option (Nat × Nat)) :
    (beginCommand op l a s).aLen = s.aLen := rfl
@[simp] theorem beginCommand_tOk (op : Fop) (l : Fpc) (a : Option (Nat × Nat)) :
    (beginCommand op l a s).tOk = s.tOk := rfl
@[simp] theorem beginCommand_hc (op : Fop) (l : Fpc) (a : Option (Nat × Nat)) :
    (beginCommand op l a s).hc = none := rfl
@[simp] theorem beginCommand_hr (op : Fop) (l : Fpc) (a : Option (Nat × Nat)) :
    (beginCommand op l a s).hr = s.hr := rfl
@[simp] theorem beginCommand_mem (op : Fop) (l : Fpc) (a : Option (Nat × Nat)) :
    (beginCommand op l a s).mem = s.mem := rfl
@[simp] theorem beginCommand_tr (op : Fop) (l : Fpc) (a : Option (Nat × Nat)) :
    (beginCommand op l a s).tr = s.tr ++ [.call op a] := rfl
@[simp] theorem beginCommand_elapsed (op : Fop) (l : Fpc) (a : Option (Nat × Nat)) :
    (beginCommand op l a s).elapsed = s.elapsed := rfl
@[simp] theorem beginCommand_lastDr (op : Fop) (l : Fpc) (a : Option (Nat × Nat)) :
    (beginCommand op l a s).lastDr = s.lastDr := rfl
@[simp] theorem beginCommand_refBus (op : Fop) (l : Fpc) (a : Option (Nat × Nat)) :
    (beginCommand op l a s).refBus = s.refBus := rfl
@[simp] theorem beginCommand_pending (op : Fop) (l : Fpc) (a : Option (Nat × Nat)) :
    (beginCommand op l a s).pending = s.pending := rfl
@[simp] theorem beginCommand_draws (op : Fop) (l : Fpc) (a : Option (Nat × Nat)) :
    (beginCommand op l a s).draws = s.draws := rfl

/-! `finish` -/

@[simp] theorem finish_cfg (r : Option HrVal) : (finish r s).cfg = s.cfg := rfl
@[simp] theorem finish_buf (r : Option HrVal) : (finish r s).buf = s.buf := rfl
@[simp] theorem finish_len (r : Option HrVal) : (finish r s).len = s.len := rfl
@[simp] theorem finish_cur (r : Option HrVal) : (finish r s).cur = s.cur := rfl
@[simp] theorem finish_ok (r : Option HrVal) : (finish r s).ok = s.ok := rfl
@[simp] theorem finish_state (r : Option HrVal) : (finish r s).state = s.state := rfl
@[simp] theorem finish_errcnt (r : Option HrVal) : (finish r s).errcnt = s.errcnt := rfl
@[simp] theorem finish_cr (r : Option HrVal) : (finish r s).cr = s.cr := rfl
@[simp] theorem finish_sr (r : Option HrVal) : (finish r s).sr = s.sr := rfl
@[simp] theorem finish_dr (r : Option HrVal) : (finish r s).dr = s.dr := rfl
@[simp] theorem finish_br (r : Option HrVal) : (finish r s).br = s.br := rfl
@[simp] theorem finish_port (r : Option HrVal) : (finish r s).port = s.port := rfl
@[simp] theorem finish_iflag (r : Option HrVal) : (finish r s).iflag = s.iflag := rfl
@[simp] theorem finish_armed (r : Option HrVal) : (finish r s).armed = s.armed := rfl
@[simp] theorem finish_fop (r : Option HrVal) : (finish r s).fop = .none := rfl
@[simp] theorem finish_fpc (r : Option HrVal) : (finish r s).fpc = s.fpc := rfl
@[simp] theorem finish_wcnt (r : Option HrVal) : (finish r s).wcnt = s.wcnt := rfl
@[simp] theorem finish_aBuf (r : Option HrVal) : (finish r s).aBuf = s.aBuf := rfl
@[simp] theorem finish_aLen (r : Option HrVal) : (finish r s).aLen = s.aLen := rfl
@[simp] theorem finish_tOk (r : Option HrVal) : (finish r s).tOk = s.tOk := rfl
@[simp] theorem finish_hc (r : Option HrVal) : (finish r s).hc = s.hc := rfl
@[simp] theorem finish_hr (r : Option HrVal) : (finish r s).hr = r := rfl
@[simp] theorem finish_mem (r : Option HrVal) : (finish r s).mem = s.mem := rfl
@[simp] theorem finish_tr (r : Option HrVal) : (finish r s).tr = s.tr ++ [.ret s.fop r] := rfl
@[simp] theorem finish_elapsed (r : Option HrVal) : (finish r s).elapsed = s.elapsed := rfl
@[simp] theorem finish_lastDr (r : Option HrVal) : (finish r s).lastDr = s.lastDr := rfl
@[simp] theorem finish_refBus (r : Option HrVal) : (finish r s).refBus = s.refBus := rfl
@[simp] theorem finish_pending (r : Option HrVal) : (finish r s).pending = s.pending := rfl
@[simp] theorem finish_draws (r : Option HrVal) : (finish r s).draws = s.draws := rfl

end Sys2Proof.Machine
end

