-- ==== Sys2Proof/Laws/Ops.lean ====
section
/-! SUPPORT. One lemma per shared operation that says once everything it can answer, so that a
proof about an operation of TWIM cites it and unfolds nothing. -/

namespace Sys2Proof.Machine

/-! ### Conditions -/

@[simp] theorem moreToSend_iff (s : State) : s.moreToSend = true ↔ s.cur < s.len := by
  simp [State.moreToSend]

/-- `CUR < LEN - 1` in the integers, without a subtraction. -/
@[simp] theorem moreToAck_iff (s : State) : s.moreToAck = true ↔ s.cur + 1 < s.len := by
  simp only [State.moreToAck, decide_eq_true_eq]; omega

@[simp] theorem budgetUsed_iff (s : State) : s.budgetUsed = true ↔ s.cfg.waitBudget ≤ s.wcnt := by
  simp [State.budgetUsed]

@[simp] theorem addrExists_iff (s : State) (a : Nat) :
    s.addrExists a = true ↔ a < 2 ^ s.cfg.addrWidth := by
  simp [State.addrExists]

@[simp] theorem inBuffer_iff (s : State) (a : Nat) :
    s.inBuffer a = true ↔ s.buf ≤ a ∧ a < s.buf + s.len := by
  simp [State.inBuffer]

theorem allocated_iff (s : State) (i : Nat) :
    s.allocated i = true ↔
      s.addrExists (s.bufAddr i) = true ∧ (s.mem.read (s.bufAddr i)).isSome = true := by
  simp [State.allocated]

theorem storageValid_iff (s : State) :
    s.storageValid = true ↔ ∀ i < s.len, s.allocated i = true := by
  simp [State.storageValid]

theorem seqEnabled_iff (s : State) : s.seqEnabled = true ↔ s.cr.ie = true ∧ s.iflag = true := by
  simp [State.seqEnabled]

theorem eventEnabled_iff (s : State) :
    s.eventEnabled = true ↔ s.cr.en = true ∧ s.armed = true ∧ s.iflag = false := by
  simp [State.eventEnabled, and_assoc]

/-- The counter never leaves its width (40_sequencer.md R146 f). -/
theorem incErrcnt_lt {c : Cfg} {n : Nat} (h : n < 2 ^ c.errcntWidth) :
    incErrcnt c n < 2 ^ c.errcntWidth := by
  unfold incErrcnt
  split
  · omega
  · split <;> omega

/-! ### Buffer accesses -/

theorem bufRead_ok {s : State} {i : Nat} {b : Byte} (h : i < s.len)
    (e : s.addrExists (s.bufAddr i) = true) (r : s.mem.read (s.bufAddr i) = some b) :
    s.bufRead i = .ok (b, s.log (.bufRd i b)) := by
  simp only [State.bufRead, if_pos h, if_pos e, r]

theorem bufRead_bounds {s : State} {i : Nat} (h : s.len ≤ i) :
    s.bufRead i = .error (.bufferBounds i s.len) := by
  simp [State.bufRead, Nat.not_lt.2 h]

/-- What `BufRead` answers when it answers a byte. -/
theorem bufRead_cases {s : State} {i : Nat} {b : Byte} {t : State}
    (h : s.bufRead i = .ok (b, t)) :
    i < s.len ∧ s.addrExists (s.bufAddr i) = true ∧ s.mem.read (s.bufAddr i) = some b ∧
      t = s.log (.bufRd i b) := by
  unfold State.bufRead at h
  split at h
  · rename_i hi
    split at h
    · rename_i he
      split at h
      · rename_i r
        cases h
        exact ⟨hi, he, r, rfl⟩
      · cases h
    · cases h
  · cases h

theorem bufWrite_ok {s : State} {i : Nat} (v : Byte) (h : i < s.len) (e : s.allocated i = true) :
    s.bufWrite i v =
      .ok (State.log (.bufWr i v) { s with mem := s.mem.write (s.bufAddr i) v }) := by
  simp only [State.bufWrite, if_pos h, if_pos e]

theorem bufWrite_bounds {s : State} {i : Nat} (v : Byte) (h : s.len ≤ i) :
    s.bufWrite i v = .error (.bufferBounds i s.len) := by
  simp [State.bufWrite, Nat.not_lt.2 h]

/-- What `BufWrite` answers when it stores. -/
theorem bufWrite_cases {s : State} {i : Nat} {v : Byte} {t : State} (h : s.bufWrite i v = .ok t) :
    i < s.len ∧ s.allocated i = true ∧
      t = State.log (.bufWr i v) { s with mem := s.mem.write (s.bufAddr i) v } := by
  unfold State.bufWrite at h
  split at h
  · rename_i hi
    split at h
    · rename_i he
      cases h
      exact ⟨hi, he, rfl⟩
    · cases h
  · cases h

/-- Why `BufRead` stops: the index, or storage that is not allocated. -/
theorem bufRead_error {s : State} {i : Nat} {f : Fault} (h : s.bufRead i = .error f) :
    (s.len ≤ i ∧ f = .bufferBounds i s.len) ∨
      (i < s.len ∧ s.allocated i = false ∧ f = .storageInvalid) := by
  unfold State.bufRead at h
  split at h
  · rename_i hi
    split at h
    · split at h
      · cases h
      · rename_i r
        cases h
        exact .inr ⟨hi, by simp [State.allocated, r], rfl⟩
    · rename_i he
      cases h
      exact .inr ⟨hi, by simp [State.allocated, he], rfl⟩
  · rename_i hi
    cases h
    exact .inl ⟨Nat.le_of_not_lt hi, rfl⟩

/-- Why `BufWrite` stops. -/
theorem bufWrite_error {s : State} {i : Nat} {v : Byte} {f : Fault}
    (h : s.bufWrite i v = .error f) :
    (s.len ≤ i ∧ f = .bufferBounds i s.len) ∨
      (i < s.len ∧ s.allocated i = false ∧ f = .storageInvalid) := by
  unfold State.bufWrite at h
  split at h
  · rename_i hi
    split at h
    · cases h
    · rename_i he
      cases h
      exact .inr ⟨hi, by simpa using he, rfl⟩
  · rename_i hi
    cases h
    exact .inl ⟨Nat.le_of_not_lt hi, rfl⟩

/-- A byte that is not allocated can be neither read nor stored (20_memory.md R62). -/
theorem bufRead_unallocated {s : State} {i : Nat} (h : i < s.len) (e : s.allocated i = false) :
    s.bufRead i = .error .storageInvalid := by
  simp only [State.bufRead, if_pos h]
  split
  · rename_i he
    cases hr : s.mem.read (s.bufAddr i) with
    | none => rfl
    | some b => simp [State.allocated, he, hr] at e
  · rfl

theorem bufWrite_unallocated {s : State} {i : Nat} (v : Byte) (h : i < s.len)
    (e : s.allocated i = false) : s.bufWrite i v = .error .storageInvalid := by
  simp [State.bufWrite, h, e]

/-! ### The sub-transitions -/

/-- `TX` with a byte left (40_sequencer.md R122). -/
theorem tx_send {s : State} {b : Byte} (h : s.cur < s.len)
    (e : s.addrExists (s.bufAddr s.cur) = true) (r : s.mem.read (s.bufAddr s.cur) = some b) :
    tx s = .next (State.writeCR .send
      { State.writeDR b (s.log (.bufRd s.cur b)) with cur := s.cur + 1 }) := by
  simp only [tx, (moreToSend_iff s).2 h, if_true, bufRead_ok h e r]

/-- `TX` with no byte left (40_sequencer.md R122). -/
theorem tx_done {s : State} (h : s.len ≤ s.cur) :
    tx s = .next (State.writeCR .stop { s with ok := true }) := by
  have : s.moreToSend = false := by simp [State.moreToSend, h]
  simp [tx, this]

/-- `TX` with a byte left that is not allocated (20_memory.md R62). -/
theorem tx_unallocated {s : State} (h : s.cur < s.len) (e : s.allocated s.cur = false) :
    tx s = .fault .storageInvalid := by
  simp only [tx, (moreToSend_iff s).2 h, if_true, bufRead_unallocated h e]

/-- Everything `TX` can answer as a next state. -/
theorem tx_cases {s t : State} (h : tx s = .next t) :
    (∃ b, s.cur < s.len ∧ s.addrExists (s.bufAddr s.cur) = true ∧
        s.mem.read (s.bufAddr s.cur) = some b ∧
        t = State.writeCR .send
          { State.writeDR b (s.log (.bufRd s.cur b)) with cur := s.cur + 1 }) ∨
      (s.len ≤ s.cur ∧ t = State.writeCR .stop { s with ok := true }) := by
  unfold tx at h
  split at h
  · rename_i hm
    split at h
    · rename_i b s1 hr
      obtain ⟨hl, he, hb, rfl⟩ := bufRead_cases hr
      cases h
      exact .inl ⟨b, hl, he, hb, rfl⟩
    · cases h
  · rename_i hm
    cases h
    exact .inr ⟨by simpa [State.moreToSend] using hm, rfl⟩

/-- `TX` stops only where the byte to send is not allocated. -/
theorem tx_fault {s : State} {f : Fault} (h : tx s = .fault f) :
    s.cur < s.len ∧ s.allocated s.cur = false ∧ f = .storageInvalid := by
  unfold tx at h
  split at h
  · rename_i hm
    split at h
    · cases h
    · rename_i hr
      cases h
      have hl := (moreToSend_iff s).1 hm
      rcases bufRead_error hr with ⟨h1, _⟩ | h1
      · omega
      · exact h1
  · cases h

theorem tx_not_refused {s : State} {r : Refusal} : tx s ≠ .refused r := by
  unfold tx
  split
  · split <;> simp
  · simp

/-- `RXARM` with more than one byte to come (40_sequencer.md R123). -/
theorem rxArm_ack {s : State} (h : s.cur + 1 < s.len) : rxArm s = State.writeCR .ack s := by
  simp only [rxArm, (moreToAck_iff s).2 h, if_true]

/-- `RXARM` before the last byte, or with none (40_sequencer.md R123). -/
theorem rxArm_nack {s : State} (h : s.len ≤ s.cur + 1) : rxArm s = State.writeCR .nack s := by
  have : s.moreToAck = false := by
    rw [Bool.eq_false_iff, ne_eq, moreToAck_iff]; omega
  simp [rxArm, this]

/-- `RXARM` is one of two `CR` writes. -/
theorem rxArm_cases (s : State) :
    rxArm s = State.writeCR .ack s ∨ rxArm s = State.writeCR .nack s := by
  unfold rxArm
  split
  · exact .inl rfl
  · exact .inr rfl

/-! ### Host commands -/

theorem runCommand_first {op : Fop} {l : Fpc} {a : Option (Nat × Nat)} {micro : State → State}
    {s : State} (h : s.fop = .none) :
    runCommand op l a micro s = .next (micro (beginCommand op l a s)) := by
  simp [runCommand, h]

theorem runCommand_next {op : Fop} {l : Fpc} {a : Option (Nat × Nat)} {micro : State → State}
    {s : State} (h : s.fop = op) (hn : op ≠ .none) :
    runCommand op l a micro s = .next (micro s) := by
  subst h; simp [runCommand, hn]

theorem runCommand_other {op : Fop} {l : Fpc} {a : Option (Nat × Nat)} {micro : State → State}
    {s : State} (h : s.fop ≠ .none) (hn : s.fop ≠ op) : runCommand op l a micro s = .next s := by
  simp [runCommand, h, hn]

/-- Everything one execution of a host command can answer: always a next state, made by the first
micro-step, by the next one, or by none. -/
theorem runCommand_cases (op : Fop) (l : Fpc) (a : Option (Nat × Nat)) (micro : State → State)
    (s : State) :
    (s.fop = .none ∧ runCommand op l a micro s = .next (micro (beginCommand op l a s))) ∨
      (s.fop ≠ .none ∧ s.fop = op ∧ runCommand op l a micro s = .next (micro s)) ∨
      (s.fop ≠ .none ∧ s.fop ≠ op ∧ runCommand op l a micro s = .next s) := by
  unfold runCommand
  split
  · exact .inl ⟨‹_›, rfl⟩
  · split
    · exact .inr (.inl ⟨‹_›, ‹_›, rfl⟩)
    · exact .inr (.inr ⟨‹_›, ‹_›, rfl⟩)

end Sys2Proof.Machine
end

