-- ==== Sys2Proof/Laws/Exec.lean ====
section
/-! SUPPORT. What one execution can do, said once: every next state of a reaction, every micro-step
of a host command. The proofs about operations go through these two relations and unfold no
meaning. -/

namespace Sys2Proof.Machine

/-! ### Reactions -/

/-- The state a sending reaction works on: the START reactions have reset the cursor. -/
inductive SendsFrom : Instr → State → State → Prop where
  | start (ign : Byte) (s : State) : SendsFrom (.sStart ign) s { s with cur := 0 }
  | repeatedStart (ign : Byte) (s : State) : SendsFrom (.sRepeatedStart ign) s { s with cur := 0 }
  | writeAddressAck (ign : Byte) (s : State) : SendsFrom (.sWriteAddressAck ign) s s
  | writeDataAck (ign : Byte) (s : State) : SendsFrom (.sWriteDataAck ign) s s

/-- Every next state a reaction can answer. -/
inductive ReactsTo : Instr → State → State → Prop where
  | send {i : Instr} {s s0 : State} {b : Byte} (from_ : SendsFrom i s s0) (below : s0.cur < s0.len)
      (exists_ : s0.addrExists (s0.bufAddr s0.cur) = true)
      (holds : s0.mem.read (s0.bufAddr s0.cur) = some b) :
      ReactsTo i s (State.writeCR .send
        { State.writeDR b (s0.log (.bufRd s0.cur b)) with cur := s0.cur + 1 })
  | complete {i : Instr} {s s0 : State} (from_ : SendsFrom i s s0) (past : s0.len ≤ s0.cur) :
      ReactsTo i s (State.writeCR .stop { s0 with ok := true })
  | arm (ign : Byte) (s : State) : ReactsTo (.sReadAddressAck ign) s (rxArm s)
  | store (ign : Byte) {s : State} (below : s.cur < s.len) (alloc : s.allocated s.cur = true) :
      ReactsTo (.sReadDataAck ign) s (rxArm
        { State.log (.bufWr s.cur s.dr) { s with mem := s.mem.write (s.bufAddr s.cur) s.dr } with
          cur := s.cur + 1 })
  | storeLast (ign : Byte) {s : State} (below : s.cur < s.len) (alloc : s.allocated s.cur = true) :
      ReactsTo (.sReadDataNack ign) s (State.writeCR .stop
        { State.log (.bufWr s.cur s.dr) { s with mem := s.mem.write (s.bufAddr s.cur) s.dr } with
          ok := true })
  | restart (ign : Byte) (s : State) :
      ReactsTo (.sArbitrationLost ign) s (State.writeCR .restart s)
  | fail {i : Instr} {code ign : Byte} {s : State} (in_ : (i, code) ∈ failures s.cfg code ign) :
      ReactsTo i s (tFail code ign s)

theorem sends_cases {i : Instr} {s s0 t : State} (from_ : SendsFrom i s s0) (h : tx s0 = .next t) :
    ReactsTo i s t := by
  rcases tx_cases h with ⟨b, hl, he, hb, rfl⟩ | ⟨hl, rfl⟩
  · exact .send from_ hl he hb
  · exact .complete from_ hl

/-- The inversion of `exec` on reactions. -/
theorem reaction_cases {i : Instr} {s t : State} (hi : isReaction i = true)
    (h : exec i s = .next t) : ReactsTo i s t := by
  cases i
  case sStart ign => exact sends_cases (.start ign s) h
  case sRepeatedStart ign => exact sends_cases (.repeatedStart ign s) h
  case sWriteAddressAck ign => exact sends_cases (.writeAddressAck ign s) h
  case sWriteDataAck ign => exact sends_cases (.writeDataAck ign s) h
  case sReadAddressAck ign => cases h; exact .arm ign s
  case sReadDataAck ign =>
    simp only [exec, execSReadDataAck] at h
    split at h
    · rename_i hw
      obtain ⟨hl, ha, rfl⟩ := bufWrite_cases hw
      cases h
      exact .store ign hl ha
    · cases h
  case sReadDataNack ign =>
    simp only [exec, execSReadDataNack] at h
    split at h
    · rename_i hw
      obtain ⟨hl, ha, rfl⟩ := bufWrite_cases hw
      cases h
      exact .storeLast ign hl ha
    · cases h
  case sArbitrationLost ign => cases h; exact .restart ign s
  case sWriteAddressNack ign => cases h; exact .fail (by simp [failures])
  case sReadAddressNack ign => cases h; exact .fail (by simp [failures])
  case sWriteDataNack ign => cases h; exact .fail (by simp [failures])
  case sBusError ign => cases h; exact .fail (by simp [failures])
  case sUnrecognized code ign => cases h; exact .fail (by simp [failures])
  all_goals simp [isReaction] at hi

/-- Why a reaction stops: the index is beyond the buffer, at a store, or the byte is not
allocated. -/
theorem reaction_fault {i : Instr} {s : State} {f : Fault} (hi : isReaction i = true)
    (h : exec i s = .fault f) :
    (isStore i = true ∧ s.len ≤ s.cur ∧ f = .bufferBounds s.cur s.len) ∨
      (∃ k, k < s.len ∧ s.allocated k = false ∧ f = .storageInvalid) := by
  cases i
  case sStart ign =>
    obtain ⟨hl, ha, hf⟩ := tx_fault h
    exact .inr ⟨_, hl, ha, hf⟩
  case sRepeatedStart ign =>
    obtain ⟨hl, ha, hf⟩ := tx_fault h
    exact .inr ⟨_, hl, ha, hf⟩
  case sWriteAddressAck ign => exact .inr ⟨_, tx_fault h⟩
  case sWriteDataAck ign => exact .inr ⟨_, tx_fault h⟩
  case sReadDataAck ign =>
    simp only [exec, execSReadDataAck] at h
    split at h
    · cases h
    · rename_i hw
      cases h
      rcases bufWrite_error hw with ⟨hl, hf⟩ | hb
      · exact .inl ⟨rfl, hl, hf⟩
      · exact .inr ⟨_, hb⟩
  case sReadDataNack ign =>
    simp only [exec, execSReadDataNack] at h
    split at h
    · cases h
    · rename_i hw
      cases h
      rcases bufWrite_error hw with ⟨hl, hf⟩ | hb
      · exact .inl ⟨rfl, hl, hf⟩
      · exact .inr ⟨_, hb⟩
  all_goals first
    | (simp [isReaction] at hi; done)
    | cases h

/-! ### Host commands -/

/-- Every micro-step a host command can take, by its label. -/
inductive MicroStep : Instr → State → State → Prop where
  | initI1 {s : State} (l : s.fpc = .I1) :
      MicroStep .hInit s { s.writeBR s.cfg.brValue with fpc := .I2 }
  | initI2 {s : State} (l : s.fpc = .I2) :
      MicroStep .hInit s { s.writePORT (!s.cfg.externalPullups) with fpc := .I3 }
  | initI3 {s : State} (l : s.fpc = .I3) :
      MicroStep .hInit s (finish none (State.writeCR .idle s))
  | busyB1 {s : State} (l : s.fpc = .B1) : MicroStep .hBusy s (finish (some (.flag s.busy)) s)
  | lastStatusL1 {s : State} (l : s.fpc = .L1) :
      MicroStep .hLastStatus s (finish (some (.status s.state)) s)
  | errorCountE1 {s : State} (l : s.fpc = .E1) :
      MicroStep .hErrorCount s (finish (some (.count s.errcnt)) s)
  | configureNull (b n : Nat) {s : State} (l : s.fpc = .C1) (null : b = s.cfg.null) :
      MicroStep (.hConfigure b n) s (finish none s)
  | configureC1 (b n : Nat) {s : State} (l : s.fpc = .C1) (given : b ≠ s.cfg.null) :
      MicroStep (.hConfigure b n) s { s with aBuf := b, aLen := n, fpc := .W0 }
  | configureC3 (b n : Nat) {s : State} (l : s.fpc = .C3) :
      MicroStep (.hConfigure b n) s { s with buf := s.aBuf, fpc := .C4 }
  | configureC4 (b n : Nat) {s : State} (l : s.fpc = .C4) :
      MicroStep (.hConfigure b n) s (finish none { s with len := s.aLen })
  | startNull {s : State} (l : s.fpc = .S1) (null : s.buf = s.cfg.null) :
      MicroStep .hStart s (finish none s)
  | startS1 {s : State} (l : s.fpc = .S1) (given : s.buf ≠ s.cfg.null) :
      MicroStep .hStart s { s with fpc := .W0 }
  | startS3 {s : State} (l : s.fpc = .S3) : MicroStep .hStart s { s with ok := false, fpc := .S4 }
  | startS4 {s : State} (l : s.fpc = .S4) :
      MicroStep .hStart s { s with state := s.cfg.codeNoState, fpc := .S5 }
  | startS5 {s : State} (l : s.fpc = .S5) :
      MicroStep .hStart s (finish none (State.writeCR .start s))
  | queryQ2 {s : State} (l : s.fpc = .Q2) :
      MicroStep .hQueryResult s { s with tOk := s.ok, fpc := .Q3 }
  | queryQ3 {s : State} (l : s.fpc = .Q3) :
      MicroStep .hQueryResult s (finish (some (.flag s.tOk))
        { s with errcnt := if s.tOk then s.errcnt else incErrcnt s.cfg s.errcnt })
  | waitW0 {i : Instr} {s : State} (l : s.fpc = .W0) : MicroStep i s (waitW0 s)
  | waitIdle {i : Instr} {s : State} {op : Fop} {r : Fpc} {b n : Nat}
      (w : (op, i, r) ∈ waiters b n) (l : s.fpc = .W1) (idle : s.cr.ie = false) :
      MicroStep i s { s with fpc := r }
  | waitOut {i : Instr} {s : State} (l : s.fpc = .W1) (busy : s.cr.ie = true)
      (used : s.cfg.waitBudget ≤ s.wcnt) : MicroStep i s { s with fpc := .T1 }
  | waitDelay {i : Instr} {s : State} (l : s.fpc = .W1) (busy : s.cr.ie = true)
      (left : s.wcnt < s.cfg.waitBudget) : MicroStep i s { s with fpc := .W2, elapsed := false }
  | waitW2 {i : Instr} {s : State} (l : s.fpc = .W2) (done : s.elapsed = true) :
      MicroStep i s { s with wcnt := s.wcnt + 1, fpc := .W1 }
  | waitT1 {i : Instr} {s : State} (l : s.fpc = .T1) : MicroStep i s (waitT1 s)
  | waitT2 {i : Instr} {s : State} {op : Fop} {r : Fpc} {b n : Nat}
      (w : (op, i, r) ∈ waiters b n) (l : s.fpc = .T2) : MicroStep i s (waitT2 r s)

/-- W1 is one of three micro-steps. -/
theorem waitW1_micro {i : Instr} {s : State} {op : Fop} {r : Fpc} {b n : Nat}
    (w : (op, i, r) ∈ waiters b n) (l : s.fpc = .W1) : MicroStep i s (waitW1 r s) := by
  unfold waitW1
  split
  · rename_i h; exact .waitIdle w l (by simpa [State.busy] using h)
  · rename_i h
    have busy : s.cr.ie = true := by simpa [State.busy] using h
    split
    · rename_i h; exact .waitOut l busy ((budgetUsed_iff s).1 h)
    · rename_i h; exact .waitDelay l busy (by rw [budgetUsed_iff] at h; omega)

/-- W2 is a micro-step once the delay has ended, and no step before. -/
theorem waitW2_micro {i : Instr} {s : State} (l : s.fpc = .W2) :
    Sys2Proof.Machine.waitW2 s = s ∨ MicroStep i s (Sys2Proof.Machine.waitW2 s) := by
  unfold Sys2Proof.Machine.waitW2
  split
  · rename_i h; exact .inr (.waitW2 l h)
  · exact .inl rfl

theorem initMicro_cases (s : State) : initMicro s = s ∨ MicroStep .hInit s (initMicro s) := by
  unfold initMicro
  split
  · exact .inr (.initI1 ‹_›)
  · exact .inr (.initI2 ‹_›)
  · exact .inr (.initI3 ‹_›)
  · exact .inl rfl

theorem busyMicro_cases (s : State) : busyMicro s = s ∨ MicroStep .hBusy s (busyMicro s) := by
  unfold busyMicro
  split
  · exact .inr (.busyB1 ‹_›)
  · exact .inl rfl

theorem lastStatusMicro_cases (s : State) :
    lastStatusMicro s = s ∨ MicroStep .hLastStatus s (lastStatusMicro s) := by
  unfold lastStatusMicro
  split
  · exact .inr (.lastStatusL1 ‹_›)
  · exact .inl rfl

theorem errorCountMicro_cases (s : State) :
    errorCountMicro s = s ∨ MicroStep .hErrorCount s (errorCountMicro s) := by
  unfold errorCountMicro
  split
  · exact .inr (.errorCountE1 ‹_›)
  · exact .inl rfl

theorem configureMicro_cases (b n : Nat) (s : State) :
    configureMicro b n s = s ∨ MicroStep (.hConfigure b n) s (configureMicro b n s) := by
  have w : (Fop.configure, Instr.hConfigure b n, Fpc.C3) ∈ waiters b n := by simp [waiters]
  unfold configureMicro
  split
  · split
    · exact .inr (.configureNull b n ‹_› ‹_›)
    · exact .inr (.configureC1 b n ‹_› ‹_›)
  · exact .inr (.waitW0 ‹_›)
  · exact .inr (waitW1_micro w ‹_›)
  · exact waitW2_micro ‹_›
  · exact .inr (.waitT1 ‹_›)
  · exact .inr (.waitT2 w ‹_›)
  · exact .inr (.configureC3 b n ‹_›)
  · exact .inr (.configureC4 b n ‹_›)
  · exact .inl rfl

theorem startMicro_cases (s : State) : startMicro s = s ∨ MicroStep .hStart s (startMicro s) := by
  have w : (Fop.start, Instr.hStart, Fpc.S3) ∈ waiters 0 0 := by simp [waiters]
  unfold startMicro
  split
  · split
    · exact .inr (.startNull ‹_› ‹_›)
    · exact .inr (.startS1 ‹_› ‹_›)
  · exact .inr (.waitW0 ‹_›)
  · exact .inr (waitW1_micro w ‹_›)
  · exact waitW2_micro ‹_›
  · exact .inr (.waitT1 ‹_›)
  · exact .inr (.waitT2 w ‹_›)
  · exact .inr (.startS3 ‹_›)
  · exact .inr (.startS4 ‹_›)
  · exact .inr (.startS5 ‹_›)
  · exact .inl rfl

theorem queryResultMicro_cases (s : State) :
    queryResultMicro s = s ∨ MicroStep .hQueryResult s (queryResultMicro s) := by
  have w : (Fop.queryResult, Instr.hQueryResult, Fpc.Q2) ∈ waiters 0 0 := by simp [waiters]
  unfold queryResultMicro
  split
  · exact .inr (.waitW0 ‹_›)
  · exact .inr (waitW1_micro w ‹_›)
  · exact waitW2_micro ‹_›
  · exact .inr (.waitT1 ‹_›)
  · exact .inr (.waitT2 w ‹_›)
  · exact .inr (.queryQ2 ‹_›)
  · exact .inr (.queryQ3 ‹_›)
  · exact .inl rfl

/-- The label a command begins at. -/
def firstLabel : Instr → Fpc
  | .hBusy => .B1
  | .hConfigure _ _ => .C1
  | .hStart => .S1
  | .hQueryResult => .W0
  | .hLastStatus => .L1
  | .hErrorCount => .E1
  | .hInit | .sStart _ | .sRepeatedStart _ | .sWriteAddressAck _ | .sWriteDataAck _
  | .sReadAddressAck _ | .sReadDataAck _ | .sReadDataNack _ | .sArbitrationLost _
  | .sWriteAddressNack _ | .sReadAddressNack _ | .sWriteDataNack _ | .sBusError _
  | .sUnrecognized _ _ => .I1

/-- The operands a command is called with. -/
def callOperands : Instr → Option (Nat × Nat)
  | .hConfigure b n => some (b, n)
  | .hInit | .hBusy | .hStart | .hQueryResult | .hLastStatus | .hErrorCount | .sStart _
  | .sRepeatedStart _ | .sWriteAddressAck _ | .sWriteDataAck _ | .sReadAddressAck _
  | .sReadDataAck _ | .sReadDataNack _ | .sArbitrationLost _ | .sWriteAddressNack _
  | .sReadAddressNack _ | .sWriteDataNack _ | .sBusError _ | .sUnrecognized _ _ => none

/-- The state in which an execution of a command takes its micro-step: the command has just begun,
or it was in progress. -/
inductive StepsFrom : Instr → State → State → Prop where
  | first {i : Instr} {s : State} (none_ : s.fop = .none) :
      StepsFrom i s (beginCommand (commandOf i) (firstLabel i) (callOperands i) s)
  | going {i : Instr} {s : State} (some_ : s.fop ≠ .none) (same : s.fop = commandOf i) :
      StepsFrom i s s

theorem runCommand_micro {op : Fop} {l : Fpc} {a : Option (Nat × Nat)} {micro : State → State}
    {i : Instr} (hop : op = commandOf i) (hl : l = firstLabel i) (ha : a = callOperands i)
    (hm : ∀ s, micro s = s ∨ MicroStep i s (micro s)) (s : State) :
    ∃ t, runCommand op l a micro s = .next t ∧
      (t = s ∨ ∃ s0, StepsFrom i s s0 ∧ (t = s0 ∨ MicroStep i s0 t)) := by
  subst hop hl ha
  rcases runCommand_cases (commandOf i) (firstLabel i) (callOperands i) micro s with
    ⟨hn, e⟩ | ⟨hn, ho, e⟩ | ⟨_, _, e⟩
  · exact ⟨_, e, .inr ⟨_, .first hn, hm _⟩⟩
  · exact ⟨_, e, .inr ⟨_, .going hn ho, hm _⟩⟩
  · exact ⟨_, e, .inl rfl⟩

/-- A host command always answers a next state, and either nothing happened, or the command began
or was in progress, and took one of its micro-steps or none. -/
theorem command_steps {i : Instr} (s : State) (hi : isReaction i = false) :
    ∃ t, exec i s = .next t ∧
      (t = s ∨ ∃ s0, StepsFrom i s s0 ∧ (t = s0 ∨ MicroStep i s0 t)) := by
  cases i
  case hInit => exact runCommand_micro rfl rfl rfl initMicro_cases s
  case hBusy => exact runCommand_micro rfl rfl rfl busyMicro_cases s
  case hConfigure b n => exact runCommand_micro rfl rfl rfl (configureMicro_cases b n) s
  case hStart => exact runCommand_micro rfl rfl rfl startMicro_cases s
  case hQueryResult => exact runCommand_micro rfl rfl rfl queryResultMicro_cases s
  case hLastStatus => exact runCommand_micro rfl rfl rfl lastStatusMicro_cases s
  case hErrorCount => exact runCommand_micro rfl rfl rfl errorCountMicro_cases s
  all_goals simp [isReaction] at hi

/-- A command's first micro-step is never a mere beginning: it is the micro-step at its first
label. -/
theorem command_first {i : Instr} {s : State} (hi : isReaction i = false) (hn : s.fop = .none) :
    ∃ t, exec i s = .next t ∧
      MicroStep i (beginCommand (commandOf i) (firstLabel i) (callOperands i) s) t := by
  cases i
  case hInit => exact ⟨_, runCommand_first hn, .initI1 rfl⟩
  case hBusy => exact ⟨_, runCommand_first hn, .busyB1 rfl⟩
  case hConfigure b n =>
    refine ⟨_, runCommand_first hn, ?_⟩
    simp only [configureMicro, beginCommand_fpc]
    split
    · exact .configureNull b n rfl ‹_›
    · exact .configureC1 b n rfl ‹_›
  case hStart =>
    refine ⟨_, runCommand_first hn, ?_⟩
    simp only [startMicro, beginCommand_fpc]
    split
    · exact .startNull rfl ‹_›
    · exact .startS1 rfl ‹_›
  case hQueryResult => exact ⟨_, runCommand_first hn, .waitW0 rfl⟩
  case hLastStatus => exact ⟨_, runCommand_first hn, .lastStatusL1 rfl⟩
  case hErrorCount => exact ⟨_, runCommand_first hn, .errorCountE1 rfl⟩
  all_goals simp [isReaction] at hi

/-- The inversion of `exec` on host commands: it always answers a next state, and either nothing
happened, or the command began or was in progress, and took one of its micro-steps. -/
theorem command_cases {i : Instr} (s : State) (hi : isReaction i = false) :
    ∃ t, exec i s = .next t ∧ (t = s ∨ ∃ s0, StepsFrom i s s0 ∧ MicroStep i s0 t) := by
  by_cases hn : s.fop = .none
  · obtain ⟨t, e, m⟩ := command_first hi hn
    exact ⟨t, e, .inr ⟨_, .first hn, m⟩⟩
  · obtain ⟨t, e, h | ⟨s0, f, h⟩⟩ := command_steps s hi
    · exact ⟨t, e, .inl h⟩
    · cases f with
      | first h0 => exact absurd h0 hn
      | going h1 h2 =>
        rcases h with h | h
        · exact ⟨t, e, .inl h⟩
        · exact ⟨t, e, .inr ⟨_, .going h1 h2, h⟩⟩

/-- No operation is ever refused. -/
theorem exec_not_refused (i : Instr) (s : State) (r : Refusal) : exec i s ≠ .refused r := by
  cases i
  case sStart => exact tx_not_refused
  case sRepeatedStart => exact tx_not_refused
  case sWriteAddressAck => exact tx_not_refused
  case sWriteDataAck => exact tx_not_refused
  case sReadDataAck => simp only [exec, execSReadDataAck]; split <;> simp
  case sReadDataNack => simp only [exec, execSReadDataNack]; split <;> simp
  case hInit => obtain ⟨t, e, _⟩ := command_cases (i := .hInit) s rfl; simp [e]
  case hBusy => obtain ⟨t, e, _⟩ := command_cases (i := .hBusy) s rfl; simp [e]
  case hConfigure b n => obtain ⟨t, e, _⟩ := command_cases (i := .hConfigure b n) s rfl; simp [e]
  case hStart => obtain ⟨t, e, _⟩ := command_cases (i := .hStart) s rfl; simp [e]
  case hQueryResult => obtain ⟨t, e, _⟩ := command_cases (i := .hQueryResult) s rfl; simp [e]
  case hLastStatus => obtain ⟨t, e, _⟩ := command_cases (i := .hLastStatus) s rfl; simp [e]
  case hErrorCount => obtain ⟨t, e, _⟩ := command_cases (i := .hErrorCount) s rfl; simp [e]
  all_goals simp [exec, execSReadAddressAck, execSArbitrationLost, execSWriteAddressNack,
    execSReadAddressNack, execSWriteDataNack, execSBusError, execSUnrecognized]

end Sys2Proof.Machine
end

