-- ==== Sys2Proof/Laws/Agents.lean ====
section
/-! SUPPORT. What one move of each agent can do, said once: where the operation it runs comes from,
and which registers the environment's moves leave alone. -/

namespace Sys2Proof.Machine

/-- A status byte always decodes to a reaction. -/
theorem isReaction_decodeStatus (c : Cfg) (b : Byte) : isReaction (decodeStatus c b) = true := by
  rcases decodeStatus_cases c b with
    h | h | h | h | h | h | h | h | h | h | h | h | h <;> rw [h.2] <;> rfl

/-- A command word never decodes to a reaction. -/
theorem isReaction_decodeHost {c : Cfg} {w : HostWord} {i : Instr} (h : decodeHost c w = .ok i) :
    isReaction i = false := by
  unfold decodeHost at h
  repeat' split at h
  all_goals first
    | (cases h; done)
    | (cases h; rfl)

/-- The command in progress is a host command, and the one `FOP` names. -/
theorem command_some {s : State} {i : Instr} (h : s.command = some i) :
    isReaction i = false ∧ s.fop = commandOf i ∧ s.fop ≠ .none := by
  unfold State.command at h
  split at h
  · cases h
  all_goals
    rename_i e
    cases h
    exact ⟨rfl, e, by simp [e]⟩

theorem command_none {s : State} : s.command = none ↔ s.fop = .none := by
  unfold State.command
  split <;> simp [*]

/-- The command in progress, when it is `configure`, carries the latched operands. -/
theorem command_configure {s : State} {b n : Nat} (h : s.command = some (.hConfigure b n)) :
    b = s.aBuf ∧ n = s.aLen := by
  unfold State.command at h
  split at h <;> cases h
  exact ⟨rfl, rfl⟩

/-- Everything the façade's move can answer as a next state: nothing to do, the first micro-step of
a well-formed command, or the next one of the command in progress. -/
theorem facadeTurn_cases {s t : State} (h : facadeTurn s = .next t) :
    (t = s ∧ s.fop = .none) ∨
      (∃ i, s.fop = .none ∧ isReaction i = false ∧ i.WellFormed s.cfg ∧ exec i s = .next t) ∨
      (∃ i, s.command = some i ∧ (s.fop = .start → s.fpc = .S5 → s.storageValid = true) ∧
        exec i s = .next t) := by
  unfold facadeTurn at h
  split at h
  · rename_i i hc
    split at h
    · cases h
    · rename_i hl
      refine .inr (.inr ⟨i, hc, fun a b => ?_, h⟩)
      simpa [launching, a, b] using hl
  · rename_i hc
    have hn := command_none.1 hc
    split at h
    · cases h; exact .inl ⟨rfl, hn⟩
    · split at h
      · rename_i i hd
        exact .inr (.inl ⟨i, hn, isReaction_decodeHost hd, decodeHost_wellFormed hd, h⟩)
      · cases h

/-- The façade's move stops by a fault only at a launch without storage. -/
theorem facadeTurn_fault {s : State} {f : Fault} (h : facadeTurn s = .fault f) :
    s.fop = .start ∧ s.fpc = .S5 ∧ s.storageValid = false ∧ f = .storageInvalid := by
  unfold facadeTurn at h
  split at h
  · rename_i i hc
    split at h
    · rename_i hl
      cases h
      simp only [launching, Bool.and_eq_true, decide_eq_true_eq, Bool.not_eq_true'] at hl
      exact ⟨hl.1.1, hl.1.2, hl.2, rfl⟩
    · obtain ⟨t, e, _⟩ := command_cases s (command_some hc).1
      rw [e] at h; cases h
  · split at h
    · cases h
    · split at h
      · rename_i hd
        obtain ⟨t, e, _⟩ := command_cases s (isReaction_decodeHost hd)
        rw [e] at h; cases h
      · cases h

/-- Why a command word is no operation. -/
theorem decodeHost_error {c : Cfg} {w : HostWord} {e : DecodeError}
    (h : decodeHost c w = .error e) :
    (w.op = 7 ∧ e = .reservedHostCommand) ∨
      (w.op = 2 ∧ (2 ^ c.addrWidth ≤ w.hcBuf ∨ 2 ^ c.lenWidth ≤ w.hcLen) ∧
        e = .operandTooWide) := by
  unfold decodeHost at h
  repeat' split at h
  all_goals cases h
  · exact .inr ⟨‹_›, by omega, rfl⟩
  · exact .inl ⟨by bv_omega, rfl⟩

/-- The façade's move is refused only where it takes a word that is no operation. -/
theorem facadeTurn_refused {s : State} {r : Refusal} (h : facadeTurn s = .refused r) :
    s.fop = .none ∧ ∃ w e, s.hc = some w ∧ decodeHost s.cfg w = .error e ∧ r = refusalOf e := by
  unfold facadeTurn at h
  split at h
  · split at h
    · cases h
    · exact absurd h (exec_not_refused _ s r)
  · rename_i hc
    refine ⟨command_none.1 hc, ?_⟩
    split at h
    · cases h
    · rename_i w hw
      split at h
      · exact absurd h (exec_not_refused _ s r)
      · rename_i e he
        cases h
        exact ⟨w, e, hw, he, rfl⟩

/-- The sequencer's move: none, or one reaction with `IE` and `IF` both set. -/
theorem sequencerTurn_cases {s t : State} (h : sequencerTurn s = .next t) :
    (t = s ∧ s.seqEnabled = false) ∨
      (s.cr.ie = true ∧ s.iflag = true ∧ exec (decodeStatus s.cfg s.sr) s = .next t) := by
  unfold sequencerTurn at h
  split at h
  · rename_i he
    exact .inr ⟨((seqEnabled_iff s).1 he).1, ((seqEnabled_iff s).1 he).2, h⟩
  · rename_i he
    cases h
    exact .inl ⟨rfl, by simpa using he⟩

/-- RefBus moves as the controller does, with draws of its own, or moves itself only. -/
theorem refBusEvent_cases (data other : Byte) (s : State) :
    (∃ st d r, refBusEvent data other s =
        { controllerEvent st d other s with refBus := r }) ∨
      (∃ r, refBusEvent data other s = { s with refBus := r }) := by
  unfold refBusEvent
  split
  · split
    · exact .inl ⟨_, _, _, rfl⟩
    · exact .inr ⟨s.refBus, rfl⟩
  · split
    · exact .inr ⟨s.refBus, rfl⟩
    · exact .inr ⟨_, rfl⟩

/-- A replaced event is the controller's event with the script's draws, and moves RefBus. -/
theorem refBusReplaced_cases (status data other : Byte) (s : State) :
    ∃ r, refBusReplaced status data other s =
      { controllerEvent status data other s with refBus := r } := by
  by_cases h : s.eventEnabled = true
  · exact ⟨_, if_pos h⟩
  · exact ⟨s.refBus, by simp [refBusReplaced, controllerEvent, h]⟩

/-- The controller's event step: none, or one report. -/
theorem controllerEvent_cases (status data other : Byte) (s : State) :
    (controllerEvent status data other s = s ∧ s.eventEnabled = false) ∨
      (s.cr.en = true ∧ s.armed = true ∧ s.iflag = false ∧
        ∃ d, controllerEvent status data other s =
          { s with sr := status, dr := d, iflag := true, armed := false }) := by
  unfold controllerEvent
  split
  · rename_i h
    obtain ⟨h1, h2, h3⟩ := (eventEnabled_iff s).1 h
    exact .inr ⟨h1, h2, h3, _, rfl⟩
  · rename_i h
    exact .inl ⟨rfl, by simpa using h⟩

/-- The controller's event step writes no register of the block and none of the façade. -/
@[simp] theorem controllerEvent_cr (status data other : Byte) (s : State) :
    (controllerEvent status data other s).cr = s.cr := by
  unfold controllerEvent; split <;> rfl

end Sys2Proof.Machine
end

