-- ==== Sys2Proof/Laws/Pending.lean ====
section
/-! SUPPORT. No operation and no agent reads or changes the pending choices: every move commutes
with replacing them. -/

namespace Sys2Proof.Machine

/-- The state with other pending choices. -/
def State.withPending (p : List Choice) (s : State) : State := { s with pending := p }

/-- An answer with other pending choices. -/
def pendingOf (p : List Choice) : Result → Result
  | .next t => .next (t.withPending p)
  | .fault f => .fault f
  | .refused r => .refused r

variable (p : List Choice) (s : State)

theorem bufRead_withPending (i : Nat) :
    (s.withPending p).bufRead i =
      match s.bufRead i with
      | .ok (b, t) => .ok (b, t.withPending p)
      | .error f => .error f := by
  have e : (s.withPending p).addrExists ((s.withPending p).bufAddr i) =
    s.addrExists (s.bufAddr i) := rfl
  have e2 : (s.withPending p).mem.read ((s.withPending p).bufAddr i) = s.mem.read (s.bufAddr i) :=
    rfl
  have e3 : (s.withPending p).len = s.len := rfl
  unfold State.bufRead
  rw [e, e2, e3]
  by_cases h : i < s.len <;> cases s.addrExists (s.bufAddr i) <;>
    cases s.mem.read (s.bufAddr i) <;> simp only [h, if_true, if_false, Bool.false_eq_true]
  rfl

theorem bufWrite_withPending (i : Nat) (v : Byte) :
    (s.withPending p).bufWrite i v =
      match s.bufWrite i v with
      | .ok t => .ok (t.withPending p)
      | .error f => .error f := by
  have e : (s.withPending p).allocated i = s.allocated i := rfl
  have e3 : (s.withPending p).len = s.len := rfl
  unfold State.bufWrite
  rw [e, e3]
  by_cases h : i < s.len <;> cases s.allocated i <;>
    simp only [h, if_true, if_false, Bool.false_eq_true]
  rfl

theorem tx_withPending : tx (s.withPending p) = pendingOf p (tx s) := by
  have e : (s.withPending p).moreToSend = s.moreToSend := rfl
  have e2 : (s.withPending p).cur = s.cur := rfl
  simp only [tx, e, e2, bufRead_withPending]
  cases s.moreToSend
  · rfl
  · cases s.bufRead s.cur <;> rfl

theorem rxArm_withPending : rxArm (s.withPending p) = (rxArm s).withPending p := by
  have e : (s.withPending p).moreToAck = s.moreToAck := rfl
  simp only [rxArm, e]
  cases s.moreToAck <;> rfl

theorem waitW1_withPending (r : Fpc) :
    waitW1 r (s.withPending p) = (waitW1 r s).withPending p := by
  have e : (s.withPending p).busy = s.busy := rfl
  have e2 : (s.withPending p).budgetUsed = s.budgetUsed := rfl
  simp only [waitW1, e, e2]
  cases s.busy <;> cases s.budgetUsed <;> rfl

theorem waitW2_withPending : waitW2 (s.withPending p) = (waitW2 s).withPending p := by
  have e : (s.withPending p).elapsed = s.elapsed := rfl
  simp only [waitW2, e]
  split <;> rfl

theorem runCommand_withPending (op : Fop) (l : Fpc) (a : Option (Nat × Nat))
    (micro : State → State)
    (hm : ∀ s : State, micro (s.withPending p) = (micro s).withPending p) :
    runCommand op l a micro (s.withPending p) = pendingOf p (runCommand op l a micro s) := by
  have e : (s.withPending p).fop = s.fop := rfl
  have e2 : beginCommand op l a (s.withPending p) = (beginCommand op l a s).withPending p := rfl
  simp only [runCommand, e, e2, hm]
  split
  · rfl
  · split <;> rfl

/-- Every operation commutes with a change of the pending choices. -/
theorem exec_withPending (i : Instr) : exec i (s.withPending p) = pendingOf p (exec i s) := by
  cases i
  case sStart => exact tx_withPending p { s with cur := 0 }
  case sRepeatedStart => exact tx_withPending p { s with cur := 0 }
  case sWriteAddressAck => exact tx_withPending p s
  case sWriteDataAck => exact tx_withPending p s
  case sReadAddressAck => exact congrArg Host.Outcome.next (rxArm_withPending p s)
  case sReadDataAck =>
    have e : (s.withPending p).cur = s.cur := rfl
    have e2 : (s.withPending p).dr = s.dr := rfl
    simp only [exec, execSReadDataAck, bufWrite_withPending, e, e2]
    cases s.bufWrite s.cur s.dr with
    | error f => rfl
    | ok t => exact congrArg Host.Outcome.next (rxArm_withPending p { t with cur := s.cur + 1 })
  case sReadDataNack =>
    have e : (s.withPending p).cur = s.cur := rfl
    have e2 : (s.withPending p).dr = s.dr := rfl
    simp only [exec, execSReadDataNack, bufWrite_withPending, e, e2]
    cases s.bufWrite s.cur s.dr <;> rfl
  case hInit =>
    refine runCommand_withPending p s _ _ _ _ fun s => ?_
    have e : (s.withPending p).fpc = s.fpc := rfl
    simp only [initMicro, e]
    split <;> rfl
  case hBusy =>
    refine runCommand_withPending p s _ _ _ _ fun s => ?_
    have e : (s.withPending p).fpc = s.fpc := rfl
    simp only [busyMicro, e]
    split <;> rfl
  case hConfigure b n =>
    refine runCommand_withPending p s _ _ _ _ fun s => ?_
    have e : (s.withPending p).fpc = s.fpc := rfl
    have e2 : (s.withPending p).cfg = s.cfg := rfl
    simp only [configureMicro, e, e2, waitW1_withPending, waitW2_withPending]
    split
    · split <;> rfl
    all_goals rfl
  case hStart =>
    refine runCommand_withPending p s _ _ _ _ fun s => ?_
    have e : (s.withPending p).fpc = s.fpc := rfl
    have e2 : (s.withPending p).cfg = s.cfg := rfl
    have e3 : (s.withPending p).buf = s.buf := rfl
    simp only [startMicro, e, e2, e3, waitW1_withPending, waitW2_withPending]
    split
    · split <;> rfl
    all_goals rfl
  case hQueryResult =>
    refine runCommand_withPending p s _ _ _ _ fun s => ?_
    have e : (s.withPending p).fpc = s.fpc := rfl
    simp only [queryResultMicro, e, waitW1_withPending, waitW2_withPending]
    split <;> rfl
  case hLastStatus =>
    refine runCommand_withPending p s _ _ _ _ fun s => ?_
    have e : (s.withPending p).fpc = s.fpc := rfl
    simp only [lastStatusMicro, e]
    split <;> rfl
  case hErrorCount =>
    refine runCommand_withPending p s _ _ _ _ fun s => ?_
    have e : (s.withPending p).fpc = s.fpc := rfl
    simp only [errorCountMicro, e]
    split <;> rfl
  all_goals rfl

/-- Every agent's move commutes with a change of the pending choices. -/
theorem agentTurn_withPending (c : Choice) :
    agentTurn c (s.withPending p) = pendingOf p (agentTurn c s) := by
  cases c
  case sequencer =>
    have e : (s.withPending p).seqEnabled = s.seqEnabled := rfl
    have e2 : interruptEntry (s.withPending p) = interruptEntry s := rfl
    simp only [agentTurn, sequencerTurn, e, e2, exec_withPending]
    cases s.seqEnabled <;> rfl
  case facade =>
    have e : (s.withPending p).command = s.command := rfl
    have e2 : launching (s.withPending p) = launching s := rfl
    have e3 : (s.withPending p).storageValid = s.storageValid := rfl
    have e4 : (s.withPending p).hc = s.hc := rfl
    have e5 : (s.withPending p).cfg = s.cfg := rfl
    simp only [agentTurn, facadeTurn, e, e2, e3, e4, e5, exec_withPending]
    generalize s.command = k
    generalize s.hc = h
    cases k with
    | some i => dsimp only; split <;> rfl
    | none =>
      cases h with
      | none => rfl
      | some w => dsimp only; split <;> rfl
  case event status data other =>
    have e : (s.withPending p).eventEnabled = s.eventEnabled := rfl
    simp only [agentTurn, controllerEvent, e]
    cases s.eventEnabled <;> rfl
  case refBus data other =>
    have e : (s.withPending p).eventEnabled = s.eventEnabled := rfl
    have e2 : refBusNext data (s.withPending p) = refBusNext data s := rfl
    have e3 : (s.withPending p).busy = s.busy := rfl
    simp only [agentTurn, refBusEvent, controllerEvent, e, e2, e3]
    cases s.eventEnabled <;> cases s.busy <;> cases refBusNext data s <;> rfl
  case refBusReplaced status data other =>
    have e : (s.withPending p).eventEnabled = s.eventEnabled := rfl
    have e2 : refBusNext data (s.withPending p) = refBusNext data s := rfl
    simp only [agentTurn, refBusReplaced, controllerEvent, e, e2]
    cases s.eventEnabled <;> rfl
  case present w =>
    have e : (s.withPending p).fop = s.fop := rfl
    have e2 : (s.withPending p).hc = s.hc := rfl
    simp only [agentTurn, hostPresent, e, e2]
    split <;> rfl
  case hostStore a v =>
    have e : hostForbidden a (s.withPending p) = hostForbidden a s := rfl
    simp only [agentTurn, hostStore, e]
    split <;> rfl
  case hostFree a =>
    have e : hostForbidden a (s.withPending p) = hostForbidden a s := rfl
    simp only [agentTurn, hostFree, e]
    split <;> rfl
  all_goals rfl

end Sys2Proof.Machine
end

