-- ==== Sys2Proof/Laws/PerInstr.lean ====
section
/-! SUPPORT. Statements about every operation as syntax, one lemma per constructor. -/

namespace Sys2Proof.Laws.RoundTrip

/-- Under valid parameters, the raw word of a well-formed operation decodes to that operation. -/
def Statement (i : Instr) : Prop :=
  ∀ c : Cfg, c.Valid → i.WellFormed c → decode c (encode c i) = .ok i

theorem sStart (ign : Byte) : Statement (.sStart ign) := fun _ v w =>
  congrArg Except.ok (decodeStatus_codeStart v w)

theorem sRepeatedStart (ign : Byte) : Statement (.sRepeatedStart ign) := fun _ v w =>
  congrArg Except.ok (decodeStatus_codeRepeatedStart v w)

theorem sWriteAddressAck (ign : Byte) : Statement (.sWriteAddressAck ign) := fun _ v w =>
  congrArg Except.ok (decodeStatus_codeWriteAddressAck v w)

theorem sWriteDataAck (ign : Byte) : Statement (.sWriteDataAck ign) := fun _ v w =>
  congrArg Except.ok (decodeStatus_codeWriteDataAck v w)

theorem sReadAddressAck (ign : Byte) : Statement (.sReadAddressAck ign) := fun _ v w =>
  congrArg Except.ok (decodeStatus_codeReadAddressAck v w)

theorem sReadDataAck (ign : Byte) : Statement (.sReadDataAck ign) := fun _ v w =>
  congrArg Except.ok (decodeStatus_codeReadDataAck v w)

theorem sReadDataNack (ign : Byte) : Statement (.sReadDataNack ign) := fun _ v w =>
  congrArg Except.ok (decodeStatus_codeReadDataNack v w)

theorem sArbitrationLost (ign : Byte) : Statement (.sArbitrationLost ign) := fun _ v w =>
  congrArg Except.ok (decodeStatus_codeArbitrationLost v w)

theorem sWriteAddressNack (ign : Byte) : Statement (.sWriteAddressNack ign) := fun _ v w =>
  congrArg Except.ok (decodeStatus_codeWriteAddressNack v w)

theorem sReadAddressNack (ign : Byte) : Statement (.sReadAddressNack ign) := fun _ v w =>
  congrArg Except.ok (decodeStatus_codeReadAddressNack v w)

theorem sWriteDataNack (ign : Byte) : Statement (.sWriteDataNack ign) := fun _ v w =>
  congrArg Except.ok (decodeStatus_codeWriteDataNack v w)

theorem sBusError (ign : Byte) : Statement (.sBusError ign) := fun _ v w =>
  congrArg Except.ok (decodeStatus_codeBusError v w)

theorem sUnrecognized (code ign : Byte) : Statement (.sUnrecognized code ign) := fun _ _ w =>
  congrArg Except.ok (decodeStatus_unrecognized w.1 w.2)

theorem hInit : Statement .hInit := fun _ _ _ => rfl

theorem hBusy : Statement .hBusy := fun _ _ _ => rfl

theorem hConfigure (hcBuf hcLen : Nat) : Statement (.hConfigure hcBuf hcLen) := fun _ _ w => by
  simp [decode, encode, decodeHost, w.1, w.2]

theorem hStart : Statement .hStart := fun _ _ _ => rfl

theorem hQueryResult : Statement .hQueryResult := fun _ _ _ => rfl

theorem hLastStatus : Statement .hLastStatus := fun _ _ _ => rfl

theorem hErrorCount : Statement .hErrorCount := fun _ _ _ => rfl

end Sys2Proof.Laws.RoundTrip
end

