-- ==== Sys2Proof/Tests/Slice0.lean ====
section
/-! SUPPORT. The model's own tests. The words and the expected results are the vectors V1 to V89 of
spec/95_test_vectors.md or are written out from the rule named; the witnesses show that the
hypotheses of each statement are met together. -/

namespace Sys2Proof.Tests

open Sys2Proof Sys2Proof.Machine

/-! ### Helpers -/

/-- A view of the next state, where there is one. -/
def after {α : Type} (r : Result) (f : State → α) : Option α :=
  match r with
  | .next t => some (f t)
  | .fault _ => none
  | .refused _ => none

def faultOf (r : Result) : Option Fault :=
  match r with
  | .next _ => none
  | .fault f => some f
  | .refused _ => none

def isNext (r : Result) : Bool :=
  match r with
  | .next _ => true
  | .fault _ => false
  | .refused _ => false

theorem next_of {r : Result} (h : isNext r = true) : ∃ t, r = .next t := by
  cases r with
  | next t => exact ⟨t, rfl⟩
  | fault f => cases h
  | refused f => cases h

theorem fault_of {r : Result} {f : Fault} (h : faultOf r = some f) : r = .fault f := by
  cases r with
  | next t => cases h
  | fault g => cases h; rfl
  | refused g => cases h

/-- The storage of the vectors, and a fourth byte: `buf = [0x38, 0x12, 0x34, 0x56]` at `0x0100`. -/
def storage : Memory := [(0x0100, 0x38), (0x0101, 0x12), (0x0102, 0x34), (0x0103, 0x56)]

/-- The pre-state of 95_test_vectors.md section 2.2: an event is pending. -/
def busyAt (cur len : Nat) (dr sr : Byte) : State :=
  { State.reset with
    buf := 0x0100, len := len, cur := cur, dr := dr, sr := sr,
    cr := ⟨true, true, false, false, false⟩, iflag := true, mem := storage }

/-- The controller is carrying out a phase of a transfer of length `len`. -/
def inFlight (cur len : Nat) : State := { busyAt cur len 0 0 with iflag := false, armed := true }

/-- Idle, with a buffer of three bytes. -/
def idle : State :=
  { State.reset with
    buf := 0x0100, len := 3, cr := ⟨true, false, false, false, false⟩, mem := storage }

/-- A command in progress at a label. -/
def during (op : Fop) (l : Fpc) (s : State) : State := { s with fop := op, fpc := l }

/-- The trace and what else a reaction leaves, for the vectors. -/
def seen (s : State) : List TraceEvent × Nat × Bool × Byte × Bool :=
  (s.tr, s.cur, s.ok, s.state, s.cr.ie)

/-! ### Well-formedness: one ill-formed term for each check -/

theorem test_ignored_bits_only :
    ¬ (Instr.sStart 0x08).WellFormed Cfg.pRef ∧ ¬ (Instr.sRepeatedStart 0x08).WellFormed Cfg.pRef ∧
    ¬ (Instr.sWriteAddressAck 0x10).WellFormed Cfg.pRef ∧
    ¬ (Instr.sWriteDataAck 0x20).WellFormed Cfg.pRef ∧
    ¬ (Instr.sReadAddressAck 0x40).WellFormed Cfg.pRef ∧
    ¬ (Instr.sReadDataAck 0x80).WellFormed Cfg.pRef ∧
    ¬ (Instr.sReadDataNack 0x08).WellFormed Cfg.pRef ∧
    ¬ (Instr.sArbitrationLost 0x08).WellFormed Cfg.pRef ∧
    ¬ (Instr.sWriteAddressNack 0x08).WellFormed Cfg.pRef ∧
    ¬ (Instr.sReadAddressNack 0x08).WellFormed Cfg.pRef ∧
    ¬ (Instr.sWriteDataNack 0x08).WellFormed Cfg.pRef ∧
    ¬ (Instr.sBusError 0x08).WellFormed Cfg.pRef := by decide

theorem test_unrecognized_is_masked_and_unnamed :
    ¬ (Instr.sUnrecognized 0x61 0).WellFormed Cfg.pRef ∧
    ¬ (Instr.sUnrecognized 0x08 0).WellFormed Cfg.pRef ∧
    ¬ (Instr.sUnrecognized 0x60 0x08).WellFormed Cfg.pRef := by decide

theorem test_configure_operands_fit :
    ¬ (Instr.hConfigure 0x10000 0).WellFormed Cfg.pRef ∧
    ¬ (Instr.hConfigure 0 0x100).WellFormed Cfg.pRef := by decide

/-! ### Decoding: words written out from 30_encoding.md R92 and R97 -/

/-- V1 to V6. -/
theorem test_decode_first_codes :
    decode Cfg.pRef (.srb 0b00001000) = .ok (.sStart 0) ∧
    decode Cfg.pRef (.srb 0b00001011) = .ok (.sStart 3) ∧
    decode Cfg.pRef (.srb 0b00010000) = .ok (.sRepeatedStart 0) ∧
    decode Cfg.pRef (.srb 0b00011000) = .ok (.sWriteAddressAck 0) ∧
    decode Cfg.pRef (.srb 0b00100000) = .ok (.sWriteAddressNack 0) ∧
    decode Cfg.pRef (.srb 0b00101011) = .ok (.sWriteDataAck 3) :=
  ⟨rfl, rfl, rfl, rfl, rfl, rfl⟩

/-- V7 to V14. -/
theorem test_decode_middle_codes :
    decode Cfg.pRef (.srb 0b00110000) = .ok (.sWriteDataNack 0) ∧
    decode Cfg.pRef (.srb 0b00111000) = .ok (.sArbitrationLost 0) ∧
    decode Cfg.pRef (.srb 0b01000000) = .ok (.sReadAddressAck 0) ∧
    decode Cfg.pRef (.srb 0b01001000) = .ok (.sReadAddressNack 0) ∧
    decode Cfg.pRef (.srb 0b01010000) = .ok (.sReadDataAck 0) ∧
    decode Cfg.pRef (.srb 0b01011111) = .ok (.sReadDataNack 7) ∧
    decode Cfg.pRef (.srb 0b00000000) = .ok (.sBusError 0) ∧
    decode Cfg.pRef (.srb 0b00000111) = .ok (.sBusError 7) :=
  ⟨rfl, rfl, rfl, rfl, rfl, rfl, rfl, rfl⟩

/-- V15 to V18. -/
theorem test_decode_unrecognized :
    decode Cfg.pRef (.srb 0x60) = .ok (.sUnrecognized 0x60 0) ∧
    decode Cfg.pRef (.srb 0xF8) = .ok (.sUnrecognized 0xF8 0) ∧
    decode Cfg.pRef (.srb 0xFF) = .ok (.sUnrecognized 0xF8 7) ∧
    decode Cfg.pRef (.srb 0xA8) = .ok (.sUnrecognized 0xA8 0) :=
  ⟨rfl, rfl, rfl, rfl⟩

/-- HC_OP 0 to 7 (R97, R100), and the operands of `configure`. -/
theorem test_decode_host_commands :
    decode Cfg.pRef (.hcmd ⟨0b000, 0, 0⟩) = .ok .hInit ∧
    decode Cfg.pRef (.hcmd ⟨0b001, 0, 0⟩) = .ok .hBusy ∧
    decode Cfg.pRef (.hcmd ⟨0b010, 0x0100, 3⟩) = .ok (.hConfigure 0x0100 3) ∧
    decode Cfg.pRef (.hcmd ⟨0b011, 0, 0⟩) = .ok .hStart ∧
    decode Cfg.pRef (.hcmd ⟨0b100, 0, 0⟩) = .ok .hQueryResult ∧
    decode Cfg.pRef (.hcmd ⟨0b101, 0, 0⟩) = .ok .hLastStatus ∧
    decode Cfg.pRef (.hcmd ⟨0b110, 0, 0⟩) = .ok .hErrorCount ∧
    decode Cfg.pRef (.hcmd ⟨0b111, 0, 0⟩) = .error .reservedHostCommand ∧
    decode Cfg.pRef (.hcmd ⟨0b010, 0x10000, 3⟩) = .error .operandTooWide ∧
    decode Cfg.pRef (.hcmd ⟨0b010, 0, 0x100⟩) = .error .operandTooWide :=
  ⟨rfl, rfl, rfl, rfl, rfl, rfl, rfl, rfl, rfl, rfl⟩

/-- V19 to V25, the second instantiation of the bit positions. -/
theorem test_control_words_of_other_positions :
    [CmdWord.start, .send, .ack, .nack, .stop, .restart, .reset].map
      (CmdWord.byte { Cfg.pRef with
        bitEn := 0, bitIe := 1, bitIf := 2, bitEa := 3, bitSta := 4, bitSto := 5 }) =
      [0x17, 0x07, 0x0F, 0x07, 0x25, 0x17, 0x01] := by decide

/-- The table's words and where the overlap of the two formats falls (log 8). -/
theorem test_table_words :
    decodeTableWord 8 0x08 = some (.sStart 0) ∧ decodeTableWord 8 2 = some (.hConfigure 0 0) ∧
    decodeTableWord 8 6 = some .hErrorCount ∧ decodeTableWord 8 7 = some (.sBusError 7) ∧
    decodeTableWord 8 0xFF = some (.sUnrecognized 0xF8 7) :=
  ⟨rfl, rfl, rfl, rfl, rfl⟩

/-- The first step after reset runs the word placed: START with `LEN = 0` (V28), and `init`. -/
theorem test_fetch_word :
    after (step (State.reset.withFetchWord 8 0x08)) (fun t => (t.tr, t.ok)) =
      some ([.wrCR 0x94], true) ∧
    after (step (State.reset.withFetchWord 8 0)) (fun t => (t.fop, t.fpc)) =
      some (.init, .I2) := by decide

/-! ### The reactions: one step each -/

/-- V27: a stale cursor. -/
theorem test_start_sends_byte_zero :
    after (sequencerTurn (busyAt 7 3 0 0x08)) seen =
      some ([.bufRd 0 0x38, .wrDR 0x38, .wrCR 0x85], 1, false, 0xF8, true) := by decide

/-- V28. -/
theorem test_start_with_no_byte :
    after (sequencerTurn (busyAt 0 0 0 0x08)) seen =
      some ([.wrCR 0x94], 0, true, 0xF8, false) := by decide

/-- V29. -/
theorem test_repeated_start :
    after (sequencerTurn (busyAt 2 3 0 0x10)) seen =
      some ([.bufRd 0 0x38, .wrDR 0x38, .wrCR 0x85], 1, false, 0xF8, true) := by decide

/-- V30. -/
theorem test_write_address_ack :
    after (sequencerTurn (busyAt 1 3 0 0x18)) seen =
      some ([.bufRd 1 0x12, .wrDR 0x12, .wrCR 0x85], 2, false, 0xF8, true) := by decide

/-- V31. -/
theorem test_write_address_ack_address_only :
    after (sequencerTurn (busyAt 1 1 0 0x18)) seen =
      some ([.wrCR 0x94], 1, true, 0xF8, false) := by decide

/-- V34. -/
theorem test_write_data_ack :
    after (sequencerTurn (busyAt 2 3 0 0x2B)) seen =
      some ([.bufRd 2 0x34, .wrDR 0x34, .wrCR 0x85], 3, false, 0xF8, true) := by decide

/-- V35: a stale cursor beyond the length. -/
theorem test_write_data_ack_done :
    after (sequencerTurn (busyAt 5 3 0 0x28)) seen =
      some ([.wrCR 0x94], 5, true, 0xF8, false) := by decide

/-- V36. -/
theorem test_read_address_ack :
    after (sequencerTurn (busyAt 1 3 0 0x40)) (fun t => (seen t, t.cr.ea)) =
      some (([.wrCR 0xC5], 1, false, 0xF8, true), true) := by decide

/-- V39: `LEN - 1` in the integers. -/
theorem test_read_address_ack_length_zero :
    after (sequencerTurn (busyAt 0 0 0 0x40)) (fun t => (seen t, t.cr.ea)) =
      some (([.wrCR 0x85], 0, false, 0xF8, true), false) := by decide

/-- V40. -/
theorem test_read_data_ack :
    after (sequencerTurn (busyAt 1 4 0xAB 0x50)) (fun t => (seen t, t.mem.read 0x0101)) =
      some (([.bufWr 1 0xAB, .wrCR 0xC5], 2, false, 0xF8, true), some 0xAB) := by decide

/-- V42. -/
theorem test_read_data_ack_out_of_order :
    faultOf (sequencerTurn (busyAt 3 3 0xEE 0x50)) = some (.bufferBounds 3 3) := by decide

/-- V43. -/
theorem test_read_data_nack :
    after (sequencerTurn (busyAt 2 3 0xCD 0x58)) (fun t => (seen t, t.mem.read 0x0102)) =
      some (([.bufWr 2 0xCD, .wrCR 0x94], 2, true, 0xF8, false), some 0xCD) := by decide

/-- V45. -/
theorem test_read_data_nack_length_one :
    faultOf (sequencerTurn (busyAt 1 1 0x77 0x58)) = some (.bufferBounds 1 1) := by decide

/-- V46. -/
theorem test_arbitration_lost :
    after (sequencerTurn (busyAt 2 3 0 0x38)) (fun t => (seen t, t.cr.sta)) =
      some (([.wrCR 0xA5], 2, false, 0xF8, true), true) := by decide

/-- V47: `IF` stays. -/
theorem test_write_address_nack :
    after (sequencerTurn (busyAt 1 3 0 0x20)) (fun t => (seen t, t.iflag)) =
      some (([.wrCR 0x04], 1, false, 0x20, false), true) := by decide

/-- V53: the whole byte is recorded. -/
theorem test_write_address_nack_raw :
    after (sequencerTurn
      { busyAt 1 3 0 0x23 with cfg := { Cfg.pRef with stateCapture := .raw } }) seen =
      some ([.wrCR 0x04], 1, false, 0x23, false) := by decide

/-- V48. -/
theorem test_read_address_nack :
    after (sequencerTurn (busyAt 1 3 0 0x48)) seen =
      some ([.wrCR 0x04], 1, false, 0x48, false) := by decide

/-- V49. -/
theorem test_write_data_nack :
    after (sequencerTurn (busyAt 2 3 0 0x30)) seen =
      some ([.wrCR 0x04], 2, false, 0x30, false) := by decide

/-- V50. -/
theorem test_bus_error :
    after (sequencerTurn (busyAt 2 3 0 0x00)) seen =
      some ([.wrCR 0x04], 2, false, 0x00, false) := by decide

/-- V52, and V17's ignored bits. -/
theorem test_unrecognized :
    after (sequencerTurn (busyAt 1 3 0 0xFF)) seen =
      some ([.wrCR 0x04], 1, false, 0xF8, false) := by decide

/-- V51. -/
theorem test_unrecognized_slave_code :
    after (sequencerTurn (busyAt 1 3 0 0x60)) seen =
      some ([.wrCR 0x04], 1, false, 0x60, false) := by decide

/-! ### The host commands: one micro-step each -/

/-- V56, I2 and I3. -/
theorem test_init_port :
    after (exec .hInit { during .init .I2 idle with
      cfg := { Cfg.pRef with externalPullups := true } }) (fun t => (t.tr, t.port, t.fpc)) =
      some ([.wrPORT false], false, .I3) := by decide

theorem test_init_returns :
    after (exec .hInit (during .init .I3 (inFlight 1 3)))
      (fun t => (t.tr, t.cr.en, t.cr.ie, t.armed, t.fop)) =
      some ([.wrCR 0x04, .ret .init none], true, false, false, .none) := by decide

/-- V57, V58. -/
theorem test_busy :
    after (exec .hBusy idle) State.hr = some (some (.flag false)) ∧
    after (exec .hBusy (inFlight 1 3)) State.hr = some (some (.flag true)) := by decide

/-- V60: no wait, even while busy. -/
theorem test_configure_null :
    after (exec (.hConfigure 0 5) (inFlight 1 3)) (fun t => (t.fop, t.buf, t.len, t.cr.ie)) =
      some (.none, 0x0100, 3, true) := by decide

/-- V61: length 0 is installed. -/
theorem test_configure_length :
    after (exec (.hConfigure 0x0200 0) { during .configure .C4 idle with aBuf := 0x0200, aLen := 0 })
      (fun t => (t.len, t.fop, t.cur, t.errcnt)) = some (0, .none, 0, 0) := by decide

/-- V65. -/
theorem test_start_without_buffer :
    after (exec .hStart State.reset) (fun t => (t.fop, t.tr)) =
      some (.none, [.call .start none, .ret .start none]) := by decide

/-- V64, S5. -/
theorem test_start_launches :
    after (exec .hStart (during .start .S5 idle))
      (fun t => (t.tr, t.cr.ie, t.cr.sta, t.iflag, t.armed)) =
      some ([.wrCR 0xA5, .ret .start none], true, true, false, true) := by decide

/-- V67, V71, V72 at Q3: the latched flag, and the counter at its maximum. -/
theorem test_query_result_counts :
    after (exec .hQueryResult { during .queryResult .Q3 idle with errcnt := 0xFF })
      (fun t => (t.errcnt, t.hr)) = some (0, some (.flag false)) ∧
    after (exec .hQueryResult { during .queryResult .Q3 idle with
      errcnt := 0xFF, cfg := { Cfg.pRef with errcntMode := .saturate } }) State.errcnt =
      some 0xFF ∧
    after (exec .hQueryResult { during .queryResult .Q3 idle with errcnt := 4, tOk := true })
      (fun t => (t.errcnt, t.hr)) = some (4, some (.flag true)) := by decide

/-- V79 and V78 at the fourth poll; V80: budget 0. -/
theorem test_query_result_last_poll :
    after (exec .hQueryResult { during .queryResult .W1 (inFlight 1 3) with wcnt := 3 }) State.fpc =
      some .T1 ∧
    after (exec .hQueryResult { during .queryResult .W1 idle with wcnt := 3 }) State.fpc =
      some .Q2 ∧
    after (exec .hQueryResult { during .queryResult .W1 (inFlight 1 3) with
      cfg := { Cfg.pRef with waitBudget := 0 } }) State.fpc = some .T1 := by decide

/-- V66, V74. -/
theorem test_last_status :
    after (exec .hLastStatus (inFlight 2 3)) State.hr = some (some (.status 0xF8)) ∧
    after (exec .hLastStatus State.reset) State.hr = some (some (.status 0xF8)) := by decide

/-- V73. -/
theorem test_error_count :
    after (exec .hErrorCount { idle with errcnt := 2 }) State.hr = some (some (.count 2)) := by decide

/-! ### The environment -/

/-- V83 to V87, from `IF = 1`. -/
theorem test_command_words_command :
    [CmdWord.start, .restart, .send, .nack, .ack, .stop, .reset].map
      (fun w => ((busyAt 1 3 0 0).writeCR w).iflag) =
      [false, false, false, false, false, false, true] ∧
    [CmdWord.start, .restart, .send, .nack, .ack, .stop, .reset].map
      (fun w => ((busyAt 1 3 0 0).writeCR w).armed) =
      [true, true, true, true, true, false, false] := by decide

/-- V88, V89. -/
theorem test_controller_event :
    after (agentTurn (.event 0x50 0xAB 0) (inFlight 1 3)) (fun t => (t.sr, t.dr, t.iflag, t.armed)) =
      some (0x50, 0xAB, true, false) ∧
    after (agentTurn (.event 0x50 0xAB 0) (busyAt 1 3 0 0)) (fun t => (t.sr, t.dr, t.iflag)) =
      some (0, 0, true) := by decide

/-- 43_controller_env.md R192: START, the address by its direction bit, a byte received. -/
theorem test_ref_bus :
    after (agentTurn (.refBus 0 0) { inFlight 0 3 with cr := ⟨true, true, false, true, false⟩ })
      (fun t => (t.sr, t.refBus.mode)) = some (0x08, .started) ∧
    after (agentTurn (.refBus 0 0) { inFlight 1 3 with
      lastDr := 0x39, refBus := ⟨.started, 0, [0xAB], none⟩ }) (fun t => (t.sr, t.refBus.mode)) =
      some (0x40, .mr) ∧
    after (agentTurn (.refBus 0 0) { inFlight 1 3 with
      cr := ⟨true, true, true, false, false⟩, refBus := ⟨.mr, 1, [0xAB, 0xCD], none⟩ })
      (fun t => (t.sr, t.dr, t.refBus.rx)) = some (0x50, 0xAB, [0xCD]) ∧
    after (agentTurn (.refBus 0 0) { inFlight 2 3 with
      refBus := ⟨.mt, 1, [], some 1⟩ }) (fun t => (t.sr, t.refBus.sent)) =
      some (0x30, 2) := by decide

/-- R192: after a replaced address event whose draw moved `DR`, the CMD_NACK that follows is answered
by a received byte, since the address written, `0x39`, had the read bit; and a byte sent under a
replaced event counts, so that the peer rejects the byte after it. -/
theorem test_ref_bus_after_a_replaced_event :
    after (turns [.refBusReplaced 0x40 0 0x00, .sequencer, .refBus 0 0]
      { inFlight 1 2 with lastDr := 0x39, refBus := ⟨.started, 0, [0x77], none⟩ })
      (fun t => (t.tr, t.sr, t.dr)) = some ([.wrCR 0x85], 0x58, 0x77) ∧
    after (turns [.refBusReplaced 0x28 0 0, .sequencer, .refBus 0 0]
      { inFlight 1 3 with refBus := ⟨.mt, 1, [], some 2⟩ })
      (fun t => (t.sr, t.refBus.sent)) = some (0x30, 3) := by decide

/-- The trace P4 of 95_test_vectors.md from its event 5 on: arbitration lost in the place of RefBus's
third event, then RefBus restarts. -/
theorem test_ref_bus_arbitration_lost :
    after (turns [.refBusReplaced 0x38 0 0, .sequencer, .refBus 0 0, .sequencer, .refBus 0 0]
      { inFlight 2 3 with lastDr := 0x12, refBus := ⟨.mt, 1, [], none⟩ })
      (fun t => (t.tr, t.sr)) =
      some ([.wrCR 0xA5, .bufRd 0 0x38, .wrDR 0x38, .wrCR 0x85], 0x18) := by decide

/-- A command still to come: the run is not over (R196). -/
theorem test_final :
    Final idle ∧ ¬ Final { idle with pending := [.tick, .present ⟨3, 0, 0⟩] } ∧
      ¬ Final (inFlight 1 3) :=
  ⟨⟨rfl, by simp [idle, State.reset, State.resetFor], rfl, rfl⟩,
    fun h => h.2.1 ⟨3, 0, 0⟩ (by simp), fun h => by simpa [State.busy, inFlight, busyAt] using h.2.2.2⟩

/-- The canonical form at reset. -/
theorem test_reset_memory : Memory.wf State.reset.mem ∧ Memory.wf storage := by decide

/-! ### Witnesses: the hypotheses of each statement are met together -/

theorem witness_DecodeOfEncodeIsTheOperation :
    Cfg.pRef.Valid ∧ (Instr.sUnrecognized 0x60 7).WellFormed Cfg.pRef ∧
      (Instr.hConfigure 0xFFFF 0xFF).WellFormed Cfg.pRef :=
  ⟨Cfg.pRef_valid, by decide, by decide⟩

theorem witness_HostCommandNumbersDecode :
    0xFFFF < 2 ^ Cfg.pRef.addrWidth ∧ 0xFF < 2 ^ Cfg.pRef.lenWidth ∧
      2 ^ Cfg.pRef.addrWidth ≤ 0x10000 ∧ 2 ^ Cfg.pRef.lenWidth ≤ 0x100 := by decide

theorem witness_ControlWordHoldsItsFields :
    Cfg.pRef.Valid ∧ (1 : Fin 8) ∉ Cfg.pRef.fieldPositions := ⟨Cfg.pRef_valid, by decide⟩

/-- The last byte of the buffer, and a buffer of one byte. -/
theorem witness_StartReactionsSendByteZero :
    0 < (busyAt 7 1 0 0).len ∧
      (busyAt 7 1 0 0).addrExists ((busyAt 7 1 0 0).bufAddr 0) = true ∧
      (busyAt 7 1 0 0).mem.read ((busyAt 7 1 0 0).bufAddr 0) = some 0x38 := by decide

theorem witness_WriteAcknowledgeSendsTheNextByte :
    (busyAt 2 3 0 0).cur < (busyAt 2 3 0 0).len ∧
      (busyAt 2 3 0 0).addrExists ((busyAt 2 3 0 0).bufAddr 2) = true ∧
      (busyAt 2 3 0 0).mem.read ((busyAt 2 3 0 0).bufAddr 2) = some 0x34 := by decide

theorem witness_NothingLeftToSendCompletes :
    (busyAt 3 3 0 0).len ≤ (busyAt 3 3 0 0).cur ∧ (busyAt 2 0 0 0).len = 0 := by decide

/-- The boundary `CUR = LEN - 2`, `CUR = LEN - 1`, and `LEN = 0`. -/
theorem witness_ReadAddressAckArmsTheAcknowledge :
    (((busyAt 1 3 0 0).cur : Int) < ((busyAt 1 3 0 0).len : Int) - 1) ∧
      ¬ (((busyAt 1 2 0 0).cur : Int) < ((busyAt 1 2 0 0).len : Int) - 1) ∧
      ¬ (((busyAt 0 0 0 0).cur : Int) < ((busyAt 0 0 0 0).len : Int) - 1) := by decide

theorem witness_ReadDataAckStoresAndArms :
    ((busyAt 1 4 0 0).cur < (busyAt 1 4 0 0).len ∧ (busyAt 1 4 0 0).allocated 1 = true ∧
      (((busyAt 1 4 0 0).cur + 1 : Nat) : Int) < ((busyAt 1 4 0 0).len : Int) - 1) ∧
    ((busyAt 1 3 0 0).cur < (busyAt 1 3 0 0).len ∧ (busyAt 1 3 0 0).allocated 1 = true ∧
      ¬ (((busyAt 1 3 0 0).cur + 1 : Nat) : Int) < ((busyAt 1 3 0 0).len : Int) - 1) := by decide

theorem witness_ReadDataNackStoresTheFinalByte :
    (busyAt 2 3 0 0).cur < (busyAt 2 3 0 0).len ∧ (busyAt 2 3 0 0).allocated 2 = true := by decide

theorem witness_ReadReactionsFaultBeyondTheBuffer :
    (busyAt 3 3 0 0).len ≤ (busyAt 3 3 0 0).cur := by decide

/-- A byte that is not allocated, at the cursor and at index 0, and an address that does not exist. -/
theorem witness_AccessToUnallocatedStorageFaults :
    ((busyAt 4 5 0 0).cur < (busyAt 4 5 0 0).len ∧ (busyAt 4 5 0 0).allocated 4 = false) ∧
    (0 < (busyAt 7 5 0 0).len ∧
      ({ busyAt 7 5 0 0 with mem := [(0x0101, 0x12)] } : State).allocated 0 = false) ∧
    ({ busyAt 0 1 0 0 with buf := 0x10000, mem := [(0x10000, 0)] } : State).allocated 0 = false := by
  decide

theorem witness_TerminalFailuresRecordAndReset :
    (Instr.sUnrecognized 0x60 7, (0x60 : Byte)) ∈ failures Cfg.pRef 0x60 7 := by decide

/-- A storing reaction at the last byte, with an address beside it, and a sending one. -/
theorem witness_ReactionsWriteNothingElse :
    (isReaction (.sReadDataAck 0) = true ∧ isStore (.sReadDataAck 0) = true ∧
      (0x0101 : Nat) ≠ (busyAt 2 3 0xAB 0x50).bufAddr (busyAt 2 3 0xAB 0x50).cur ∧
      ∃ t, exec (.sReadDataAck 0) (busyAt 2 3 0xAB 0x50) = .next t) ∧
    (isReaction (.sStart 0) = true ∧ isStore (.sStart 0) = false ∧
      ∃ t, exec (.sStart 0) (busyAt 7 3 0 0x08) = .next t) :=
  ⟨⟨rfl, rfl, by decide, next_of (by decide)⟩, rfl, rfl, next_of (by decide)⟩

/-- A reaction, and a report that enables the sequencer. -/
theorem witness_ReactionsEndWithOneCommandWord :
    (isReaction (.sStart 0) = true ∧ ∃ t, exec (.sStart 0) (busyAt 7 3 0 0x08) = .next t) ∧
    ((inFlight 1 3).seqEnabled = false ∧
      after (agentTurn (.event 0x18 0 0) (inFlight 1 3)) State.seqEnabled = some true) :=
  ⟨⟨rfl, next_of (by decide)⟩, rfl, by decide⟩

/-- A storing and a sending reaction, and an address that is not the one stored to. -/
theorem witness_OnlyReadReactionsStoreAndOnlyAtTheCursor :
    (∃ t, exec (.sReadDataNack 0) (busyAt 1 3 0xAB 0) = .next t) ∧
      isStore (.sReadDataNack 0) = true ∧ 0x0102 ≠ (busyAt 1 3 0xAB 0).bufAddr 1 ∧
      (∃ t, exec (.sWriteDataAck 0) (busyAt 1 3 0 0) = .next t) ∧
      isStore (.sWriteDataAck 0) = false :=
  ⟨next_of (by decide), rfl, by decide, next_of (by decide), rfl⟩

/-- A START with a stale cursor, and a store with the cursor in range. -/
theorem witness_CursorStaysWithinTheLength :
    (∃ t, exec (.sStart 0) (busyAt 7 3 0 0) = .next t) ∧
      (∃ t, exec (.sReadDataAck 0) (busyAt 2 3 0 0) = .next t) ∧
      (busyAt 2 3 0 0).cur ≤ (busyAt 2 3 0 0).len :=
  ⟨next_of (by decide), next_of (by decide), by decide⟩

/-- Masked: `0x28` and `0x2B`; raw: vector V53. -/
theorem witness_MaskedOffBitsOfTheStatus :
    (Cfg.pRef.stateCapture = .masked ∧ statusCode Cfg.pRef 0x28 = statusCode Cfg.pRef 0x2B ∧
      ∃ t, sequencerTurn (busyAt 2 3 0 0x28) = .next t) ∧
    (Instr.sWriteAddressNack 3, (0x20 : Byte)) ∈
        failures { Cfg.pRef with stateCapture := .raw } 0x20 3 ∧
      decode { Cfg.pRef with stateCapture := .raw } (.srb 0x23) = .ok (.sWriteAddressNack 3) :=
  ⟨⟨rfl, by decide, next_of (by decide)⟩, by decide, rfl⟩

theorem witness_InitMicroSteps :
    idle.fop = .none ∧ (during .init .I2 idle).fpc = .I2 ∧ (during .init .I3 idle).fop = .init :=
  ⟨rfl, rfl, rfl⟩

theorem witness_BusyReturnsTheInterruptEnable : (inFlight 1 3).fop = .none := rfl

theorem witness_ConfigureMicroSteps :
    idle.fop = .none ∧ 0 = idle.cfg.null ∧ 0x0100 ≠ idle.cfg.null ∧
      (during .configure .C3 idle).fpc = .C3 ∧ (during .configure .C4 idle).fop = .configure := by
  decide

theorem witness_StartMicroSteps :
    State.reset.fop = .none ∧ State.reset.buf = State.reset.cfg.null ∧
      idle.fop = .none ∧ idle.buf ≠ idle.cfg.null ∧ (during .start .S5 idle).fpc = .S5 := by decide

theorem witness_QueryResultMicroSteps :
    idle.fop = .none ∧ (during .queryResult .Q2 idle).fop = .queryResult ∧
      (during .queryResult .Q3 idle).fpc = .Q3 := by decide

theorem witness_DiagnosticReadsReturnTheirRegister : (inFlight 1 3).fop = .none := rfl

/-- A poll that finds the block idle, one within the budget of 3, one that used it up. -/
theorem witness_BoundedWaitMicroSteps :
    (Fop.start, Instr.hStart, Fpc.S3) ∈ waiters 0 0 ∧
      (during .start .W1 idle).fop = .start ∧ (during .start .W1 idle).cr.ie = false ∧
      ({ during .start .W1 (inFlight 1 3) with wcnt := 2 } : State).wcnt <
        (inFlight 1 3).cfg.waitBudget ∧
      (inFlight 1 3).cfg.waitBudget ≤
        ({ during .start .W1 (inFlight 1 3) with wcnt := 3 } : State).wcnt ∧
      (inFlight 1 3).cr.ie = true := by decide

theorem witness_InitCompletes : (inFlight 1 3).fop = .none := rfl

theorem witness_ConfigureCompletesWhenIdle :
    idle.fop = .none ∧ idle.cr.ie = false ∧ 0x0200 ≠ idle.cfg.null := by decide

theorem witness_StartCompletesWhenIdle :
    idle.fop = .none ∧ idle.cr.ie = false ∧ idle.buf ≠ idle.cfg.null := by decide

theorem witness_QueryResultCompletesWhenIdle : idle.fop = .none ∧ idle.cr.ie = false := by decide

theorem witness_MisuseIsSilent :
    State.reset.fop = .none ∧ State.reset.buf = State.reset.cfg.null := by decide

theorem witness_ConfigureTwiceIsIdempotent :
    idle.fop = .none ∧ idle.cr.ie = false ∧ 0x0100 ≠ idle.cfg.null := by decide

theorem witness_CommandsKeepTheSequencersState : isReaction (.hConfigure 0x0100 3) = false := rfl

/-- A count, a new buffer, a new bit rate, success recorded, success cleared. -/
theorem witness_WriteRightsOfEveryOperation :
    after (exec .hQueryResult (during .queryResult .Q3 idle)) State.errcnt = some 1 ∧
    after (exec (.hConfigure 0 0) { during .configure .C3 idle with aBuf := 0x0200 }) State.buf =
      some 0x0200 ∧
    after (exec .hInit { idle with cfg := { Cfg.pRef with brValue := 0x20 } }) State.br =
      some 0x20 ∧
    after (exec (.sWriteDataAck 0) (busyAt 3 3 0 0)) State.ok = some true ∧
    after (exec .hStart { during .start .S3 idle with ok := true }) State.ok = some false := by
  decide

theorem witness_OnlyStartRaisesBusy :
    idle.cr.ie = false ∧
      after (agentTurn .facade (during .start .S5 idle)) (fun t => t.cr.ie) = some true := by decide

/-- Leaving the wait by an idle poll, and by the timeout. -/
theorem witness_BoundedWaitReturnsIdle :
    (Fop.queryResult, Instr.hQueryResult, Fpc.Q2) ∈ waiters 0 0 ∧
      (during .queryResult .W1 idle).fpc.isWait = true ∧
      after (exec .hQueryResult (during .queryResult .W1 idle)) State.fpc = some .Q2 ∧
      after (exec .hQueryResult (during .queryResult .T2 (inFlight 1 3))) State.fpc = some .Q2 := by
  decide

/-- A read-data class, another class, and a controller that is not armed. -/
theorem witness_ControllerEventStep :
    (inFlight 1 3).cfg.Valid ∧ (inFlight 1 3).cr.en = true ∧ (inFlight 1 3).armed = true ∧
      (inFlight 1 3).iflag = false ∧
      statusCode Cfg.pRef 0x5F = Cfg.pRef.codeReadDataNack ∧
      statusCode Cfg.pRef 0x2B ≠ Cfg.pRef.codeReadDataAck ∧
      statusCode Cfg.pRef 0x2B ≠ Cfg.pRef.codeReadDataNack ∧ idle.armed = false :=
  ⟨Cfg.pRef_valid, rfl, rfl, rfl, by decide, by decide, by decide, rfl⟩

/-- While busy the first and the last byte of the buffer; the bytes beside it; idle. -/
theorem witness_HostStorageIsStableWhileBusy :
    (inFlight 1 3).addrExists 0x0102 = true ∧ (inFlight 1 3).cr.ie = true ∧
      (inFlight 1 3).buf ≤ 0x0100 ∧ 0x0102 < (inFlight 1 3).buf + (inFlight 1 3).len ∧
      0x00FF < (inFlight 1 3).buf ∧ (inFlight 1 3).buf + (inFlight 1 3).len ≤ 0x0103 ∧
      idle.cr.ie = false ∧ Memory.wf idle.mem := by decide

theorem witness_StepReactsToThePendingEvent :
    (withStatus 0x2B idle).pending = .sequencer :: [] ∧ (withStatus 0x2B idle).cr.ie = true ∧
      (withStatus 0x2B idle).iflag = true ∧
      decode (withStatus 0x2B idle).cfg (.srb (withStatus 0x2B idle).sr) = .ok (.sWriteDataAck 3) :=
  ⟨rfl, rfl, rfl, rfl⟩

/-- A word to present to a free port, to a command in progress and to a port that holds one; a word
to take, and HC_OP 7. -/
theorem witness_StepTakesThePresentedCommand :
    (({ idle with pending := [.present ⟨3, 0, 0⟩] } : State).fop = .none ∧ idle.hc = none) ∧
      (during .start .W1 idle).fop ≠ .none ∧
      ({ idle with hc := some ⟨1, 0, 0⟩ } : State).hc ≠ none ∧
      (withCommand ⟨3, 0, 0⟩ idle).pending = .facade :: [] ∧
      (withCommand ⟨3, 0, 0⟩ idle).fop = .none ∧
      (withCommand ⟨3, 0, 0⟩ idle).hc = some ⟨3, 0, 0⟩ ∧
      decode idle.cfg (.hcmd ⟨3, 0, 0⟩) = .ok .hStart ∧ (⟨7, 0, 0⟩ : HostWord).op = 7 :=
  ⟨⟨rfl, rfl⟩, by decide, by decide, rfl, rfl, rfl, rfl, rfl⟩

/-- A micro-step that launches nothing, a launch with its storage, a launch without. -/
theorem witness_StepContinuesTheCommandInProgress :
    (during .start .S4 idle).command = some .hStart ∧
      ¬ ((during .start .S4 idle).fop = .start ∧ (during .start .S4 idle).fpc = .S5) ∧
      (during .start .S5 idle).storageValid = true ∧
      (during .start .S5 { idle with len := 5 }).storageValid = false := by decide

theorem witness_DisabledAgentsTakeNoStep :
    idle.cr.ie = false ∧ (inFlight 1 3).iflag = false ∧ idle.fop = .none ∧ idle.hc = none := by
  decide

/-- The reset move of a state with a transfer in flight. -/
theorem witness_ResetValues :
    ∃ t, agentTurn (.reset 0x11 0x22 0x33 true) (inFlight 1 3) = .next t := next_of (by decide)

theorem witness_ResetMeetsTheInvariant : Cfg.pRef.Valid := Cfg.pRef_valid

/-- An event is pending in a transfer of the vectors: the machine is busy, and the invariant holds. -/
theorem busyAt_inv {cur len : Nat} {dr sr : Byte} (h : len ≤ 4) (hc : cur < 256) :
    Inv (busyAt cur len dr sr) where
  fits := {
    cfgValid := Cfg.pRef_valid
    buf := (by decide : 0x0100 < 2 ^ 16)
    len := Nat.lt_of_le_of_lt h (by decide : 4 < 2 ^ 8)
    cur := hc
    errcnt := (by decide : 0 < 2 ^ 8)
    wcnt := (by decide : 0 ≤ 3)
    memWf := (by decide : Memory.wf storage)
    memFits := by
      intro a ha
      rw [addrExists_iff]
      show a < 65536
      simp only [busyAt, storage, Memory.read] at ha
      split at ha
      · omega
      · split at ha
        · omega
        · split at ha
          · omega
          · split at ha
            · omega
            · cases ha }
  facade := {
    label := rfl
    delaying := fun h => absurd rfl h
    latched := by intro h; cases h
    configured := by intro h; cases h
    idle := fun h => absurd rfl h
    outcomeReset := by intro h; cases h }
  busy := {
    notOk := fun _ => rfl
    configured := fun _ => (by decide : 0x0100 ≠ 0)
    storage := fun _ => by
      rw [storageValid_iff]
      intro i hi
      have : i < 4 := Nat.lt_of_lt_of_le hi h
      match i, this with
      | 0, _ => rfl
      | 1, _ => rfl
      | 2, _ => rfl
      | 3, _ => rfl
    pendingEvent := fun _ => .inr rfl
    enabled := fun _ => rfl
    oneEvent := by intro h; cases h }

/-- A launch without storage is about to be refused, and the invariant holds. -/
def unstored : State :=
  { State.reset with
    buf := 0x0100, len := 1, cr := ⟨true, false, false, false, false⟩, fop := .start, fpc := .S5 }

theorem unstored_inv : Inv unstored where
  fits := {
    cfgValid := Cfg.pRef_valid
    buf := by decide
    len := by decide
    cur := by decide
    errcnt := by decide
    wcnt := by decide
    memWf := by decide
    memFits := by intro a ha; cases ha }
  facade := {
    label := by decide
    delaying := by decide
    latched := by decide
    configured := by decide
    idle := by decide
    outcomeReset := by decide }
  busy := {
    notOk := by decide
    configured := by decide
    storage := by decide
    pendingEvent := by decide
    enabled := by decide
    oneEvent := by decide }

theorem witness_EveryStepKeepsTheInvariant :
    Inv { busyAt 1 3 0xAB 0x50 with pending := [.sequencer] } ∧
      ∃ t, step { busyAt 1 3 0xAB 0x50 with pending := [.sequencer] } = .next t := by
  refine ⟨?_, next_of (by decide)⟩
  obtain ⟨a, b, c⟩ := busyAt_inv (cur := 1) (len := 3) (dr := 0xAB) (sr := 0x50) (by decide) (by decide)
  exact ⟨⟨a.1, a.2, a.3, a.4, a.5, a.6, a.7, a.8⟩, ⟨b.1, b.2, b.3, b.4, b.5, b.6⟩,
    ⟨c.1, c.2, c.3, c.4, c.5, c.6⟩⟩

theorem reachable_turns {cs : List Choice} {s t : State} (h : Reachable s)
    (e : turns cs s = .next t) : Reachable t := by
  induction cs generalizing s with
  | nil => cases e; exact h
  | cons c cs ih =>
    simp only [turns] at e
    split at e
    · rename_i u hu; exact ih (.move c s u h hu) e
    · cases e
    · cases e

/-- From reset: the host allocates a byte, configures a buffer of one byte and starts. -/
def launch : List Choice :=
  [.hostStore 0x0100 0x38, .present ⟨2, 0x0100, 1⟩, .facade, .facade, .facade, .facade, .facade,
   .present ⟨3, 0, 0⟩, .facade, .facade, .facade, .facade, .facade, .facade]

/-- A busy state is reachable. -/
theorem reachable_busy : ∃ s, Reachable s ∧ s.cr.ie = true := by
  obtain ⟨t, ht⟩ := next_of (r := turns launch (State.resetFor Cfg.pRef)) (by decide)
  refine ⟨t, reachable_turns (.reset _ Cfg.pRef_valid) ht, ?_⟩
  have : after (turns launch (State.resetFor Cfg.pRef)) (fun t => t.cr.ie) = some true := by decide
  rw [ht] at this
  simpa [after] using this

theorem witness_BusyImpliesNotSucceeded : ∃ s, Reachable s ∧ s.cr.ie = true := reachable_busy

theorem witness_BusyImpliesConfigured : ∃ s, Reachable s ∧ s.cr.ie = true := reachable_busy

theorem witness_ATransferInFlightHasANextEvent :
    (∃ s, Reachable s ∧ s.cr.ie = true) ∧ (∃ s, Reachable s ∧ s.cr.ie = false) :=
  ⟨reachable_busy, _, .reset _ Cfg.pRef_valid, rfl⟩

/-- A command word is presented to the idle block, and the invariant holds. -/
theorem presented_inv (w : HostWord) : Inv { State.reset with hc := some w } where
  fits := {
    cfgValid := Cfg.pRef_valid
    buf := (by decide : 0 < 2 ^ 16)
    len := (by decide : 0 < 2 ^ 8)
    cur := (by decide : 0 < 2 ^ 8)
    errcnt := (by decide : 0 < 2 ^ 8)
    wcnt := (by decide : 0 ≤ 3)
    memWf := (by decide : Memory.wf [])
    memFits := by intro a ha; cases ha }
  facade := {
    label := rfl
    delaying := fun h => absurd rfl h
    latched := by intro h; cases h
    configured := by intro h; cases h
    idle := fun h => absurd rfl h
    outcomeReset := by intro h; cases h }
  busy := {
    notOk := by intro h; cases h
    configured := by intro h; cases h
    storage := by intro h; cases h
    pendingEvent := by intro h; cases h
    enabled := by intro h; cases h
    oneEvent := by intro h; cases h }

/-- A read byte beyond the buffer, a launch without storage, a host that stores into a busy
buffer; HC_OP 7, and an operand that does not fit. -/
theorem witness_FaultsAreOnlyThoseListed :
    (Inv (busyAt 3 3 0 0x50) ∧
      agentTurn .sequencer (busyAt 3 3 0 0x50) = .fault (.bufferBounds 3 3)) ∧
    (Inv unstored ∧ agentTurn .facade unstored = .fault .storageInvalid) ∧
    (Inv (busyAt 3 3 0 0x50) ∧
      agentTurn (.hostStore 0x0102 0) (busyAt 3 3 0 0x50) = .fault .storageInvalid) ∧
    (Inv { State.reset with hc := some ⟨7, 0, 0⟩ } ∧
      agentTurn .facade { State.reset with hc := some ⟨7, 0, 0⟩ } =
        .refused .reservedHostCommand) ∧
    (Inv { State.reset with hc := some ⟨2, 0x0100, 0x100⟩ } ∧
      agentTurn .facade { State.reset with hc := some ⟨2, 0x0100, 0x100⟩ } =
        .refused .operandTooWide) :=
  ⟨⟨busyAt_inv (by decide) (by decide), fault_of (by decide)⟩,
   ⟨unstored_inv, fault_of (by decide)⟩,
   ⟨busyAt_inv (by decide) (by decide), fault_of (by decide)⟩,
   ⟨presented_inv _, rfl⟩, ⟨presented_inv _, rfl⟩⟩

theorem inFlight_inFlight (cur len : Nat) : InFlight (inFlight cur len) := ⟨rfl, rfl, rfl, rfl⟩

theorem witness_WriteTransferSendsEveryByte :
    (inFlight 0 1).cfg.Valid ∧ InFlight (inFlight 0 1) ∧ BufferHolds (inFlight 0 1) [0x38] ∧
      1 ≤ [(0x38 : Byte)].length ∧
      [(⟨0, 0, 0⟩ : Draw), ⟨7, 1, 2⟩].length = [(0x38 : Byte)].length + 1 ∧
      (∀ d ∈ [(⟨0, 0, 0⟩ : Draw), ⟨7, 1, 2⟩], Cfg.pRef.IsIgnored d.ign) := by
  refine ⟨Cfg.pRef_valid, inFlight_inFlight 0 1, ⟨rfl, ?_⟩, by decide, rfl, by decide⟩
  intro i b h
  match i, h with
  | 0, h => cases h; decide

/-- The shortest read: two bytes, one received. -/
theorem witness_ReadTransferStoresEveryByte :
    (inFlight 0 2).cfg.Valid ∧ InFlight (inFlight 0 2) ∧ (inFlight 0 2).storageValid = true ∧
      (inFlight 0 2).mem.read ((inFlight 0 2).bufAddr 0) = some 0x38 ∧ 2 ≤ (inFlight 0 2).len ∧
      [(⟨0, 0xAB, 0⟩ : Draw)].length + 1 = (inFlight 0 2).len ∧
      (∀ d ∈ [(⟨1, 0, 0⟩ : Draw), ⟨7, 1, 2⟩, ⟨0, 0xAB, 0⟩], Cfg.pRef.IsIgnored d.ign) :=
  ⟨Cfg.pRef_valid, inFlight_inFlight 0 2, by decide, by decide, by decide, rfl, by decide⟩

theorem witness_LengthCornerCases :
    (inFlight 0 0).cfg.Valid ∧ InFlight (inFlight 0 0) ∧ (inFlight 0 0).len = 0 ∧
      InFlight (inFlight 0 1) ∧ (inFlight 0 1).len = 1 ∧
      (inFlight 0 1).addrExists ((inFlight 0 1).bufAddr 0) = true ∧
      (inFlight 0 1).mem.read ((inFlight 0 1).bufAddr 0) = some 0x38 ∧
      (∀ d ∈ [(⟨0, 0, 0⟩ : Draw), ⟨7, 1, 2⟩, ⟨1, 2, 3⟩], Cfg.pRef.IsIgnored d.ign) :=
  ⟨Cfg.pRef_valid, inFlight_inFlight 0 0, rfl, inFlight_inFlight 0 1, rfl, by decide, by decide,
   by decide⟩

theorem witness_ArbitrationLossRestartsFromByteZero :
    (inFlight 2 3).cfg.Valid ∧ InFlight (inFlight 2 3) ∧ 0 < (inFlight 2 3).len ∧
      (inFlight 2 3).addrExists ((inFlight 2 3).bufAddr 0) = true ∧
      (inFlight 2 3).mem.read ((inFlight 2 3).bufAddr 0) = some 0x38 ∧
      Cfg.pRef.IsIgnored 7 ∧ Cfg.pRef.IsIgnored 0 :=
  ⟨Cfg.pRef_valid, inFlight_inFlight 2 3, by decide, by decide, by decide, by decide, by decide⟩

theorem witness_QueryResultTimesOut :
    ({ inFlight 1 3 with hc := some ⟨4, 0, 0⟩ } : State).hc = some ⟨4, 0, 0⟩ ∧
      (inFlight 1 3).fop = .none ∧ (inFlight 1 3).cr.ie = true ∧ (inFlight 1 3).ok = false := by
  decide

/-- A completion of each kind, at the boundary of its range. -/
theorem witness_CompletionRacesTheTimeout :
    ((during .queryResult .T1 (busyAt 3 3 0 0x28)).fop = .queryResult ∧
      (during .queryResult .T1 (busyAt 3 3 0 0x28)).fpc = .T1 ∧
      (busyAt 3 3 0 0x28).cr.ie = true ∧ (busyAt 3 3 0 0x28).iflag = true) ∧
    (decode Cfg.pRef (.srb 0x28) = .ok (.sWriteDataAck 0) ∧
      Completes 0 (busyAt 3 3 0 0x28) (.sWriteDataAck 0)) ∧
    (decode Cfg.pRef (.srb 0x08) = .ok (.sStart 0) ∧ Completes 0 (busyAt 7 0 0 0x08) (.sStart 0)) ∧
    (decode Cfg.pRef (.srb 0x58) = .ok (.sReadDataNack 0) ∧
      Completes 0 (busyAt 2 3 0xCD 0x58) (.sReadDataNack 0)) :=
  ⟨⟨rfl, rfl, rfl, rfl⟩, ⟨rfl, .inl (by decide)⟩, ⟨rfl, .inr (.inl (by decide))⟩,
   rfl, .inr (.inr ⟨by decide, by decide, rfl⟩)⟩

/-- A reaction before T1, a report and a reaction between T1 and T2, the transfer still in flight. -/
theorem witness_CompletionRacesTheTimeout_in_flight :
    (during .queryResult .T1 (busyAt 1 3 0 0x18)).ok = false ∧
    (∀ c ∈ [Choice.sequencer] ++ [Choice.event 0x28 0 0, .sequencer], isInterruptSide c = true) ∧
    after (turns ([.sequencer] ++ .facade :: [.event 0x28 0 0, .sequencer])
      (during .queryResult .T1 (busyAt 1 3 0 0x18))) (fun u => (u.cr.ie, u.cur, u.fpc)) =
      some (true, 3, .T2) := by decide

theorem witness_FailureRacesTheTimeout :
    (during .queryResult .T1 (busyAt 1 3 0 0x20)).fop = .queryResult ∧
      (busyAt 1 3 0 0x20).cr.ie = true ∧ (busyAt 1 3 0 0x20).iflag = true ∧
      (busyAt 1 3 0 0x20).ok = false ∧
      (Instr.sWriteAddressNack 0, (0x20 : Byte)) ∈ failures Cfg.pRef 0 0 ∧
      decode (busyAt 1 3 0 0x20).cfg (.srb (busyAt 1 3 0 0x20).sr) =
        .ok (.sWriteAddressNack 0) :=
  ⟨rfl, rfl, rfl, rfl, by decide, rfl⟩

end Sys2Proof.Tests
end

section
/-! SUPPORT. Frames: what no reaction and no host command writes, said once for every next state
they can answer (10_state.md R42, 40_sequencer.md R138). -/

namespace Sys2Proof.Machine

/-- A START reaction resets the cursor before it sends; nothing else differs. -/
theorem SendsFrom.frame {i : Instr} {s s0 : State} (h : SendsFrom i s s0) :
    s0 = { s with cur := s0.cur } := by
  cases h <;> rfl

/-- A reaction's writes to the state: `CR` with `IF` and `ARMED`, `DR`, `CUR`, `OK`, `STATE`, the
storage and the trace. -/
theorem ReactsTo.frame {i : Instr} {s t : State} (h : ReactsTo i s t) :
    t = { s with
      cr := t.cr, iflag := t.iflag, armed := t.armed, dr := t.dr, lastDr := t.lastDr,
      cur := t.cur, ok := t.ok, state := t.state, mem := t.mem, tr := t.tr } := by
  cases h with
  | send from_ => rw [from_.frame]; rfl
  | complete from_ => rw [from_.frame]; rfl
  | arm | store | storeLast | restart | fail => rfl

/-- The frame of the host commands: they write none of the sequencer's registers, neither the
storage nor what is outside the block (10_state.md R42). -/
abbrev CommandFrame (s t : State) : Prop :=
  t = { s with
    buf := t.buf, len := t.len, ok := t.ok, state := t.state, errcnt := t.errcnt, cr := t.cr,
    br := t.br, port := t.port, iflag := t.iflag, armed := t.armed, fop := t.fop,
    fpc := t.fpc, wcnt := t.wcnt, aBuf := t.aBuf, aLen := t.aLen, tOk := t.tOk, hc := t.hc,
    hr := t.hr, tr := t.tr, elapsed := t.elapsed }

theorem MicroStep.frame {i : Instr} {s t : State} (h : MicroStep i s t) : CommandFrame s t := by
  cases h <;> rfl

/-- A host command always completes its execution, within the frame of its micro-steps: what the
beginning of a command writes lies in that frame too. -/
theorem command_frame {i : Instr} (s : State) (hi : isReaction i = false) :
    ∃ t, exec i s = .next t ∧ CommandFrame s t := by
  obtain ⟨t, e, rfl | ⟨s0, from_, m⟩⟩ := command_cases s hi
  · exact ⟨t, e, rfl⟩
  · cases from_ with
    | first | going => exact ⟨t, e, m.frame⟩

/-- Settles O35: each clause is one field of the frame. -/
theorem commandsKeepTheSequencersState : Obligations.CommandsKeepTheSequencersState := by
  intro i s hi
  obtain ⟨t, e, frame⟩ := command_frame s hi
  refine ⟨t, e, ?_, ?_, ?_, ?_, ?_, ?_, ?_, ?_, ?_⟩ <;> rw [frame]

end Sys2Proof.Machine
end

section
/-! SUPPORT. The cursor (10_state.md R43): a byte is sent or stored only below `LEN`, and the cursor
moves by one. -/

namespace Sys2Proof.Machine

/-- A sending reaction starts with the cursor in range, if it is a START or the cursor was. -/
theorem SendsFrom.cur_le_len {i : Instr} {s s0 : State} {ign : Byte} (h : SendsFrom i s s0)
    (hs : i = .sStart ign ∨ i = .sRepeatedStart ign ∨ s.cur ≤ s.len) : s0.cur ≤ s0.len := by
  cases h with
  | start | repeatedStart => exact Nat.zero_le _
  | writeAddressAck | writeDataAck => simpa using hs

theorem ReactsTo.cur_le_len {i : Instr} {s t : State} {ign : Byte} (h : ReactsTo i s t)
    (hs : i = .sStart ign ∨ i = .sRepeatedStart ign ∨ s.cur ≤ s.len) : t.cur ≤ t.len := by
  cases h with
  | send _ below => exact below
  | complete from_ => exact from_.cur_le_len hs
  | store _ below => exact below
  | storeLast _ below => exact Nat.le_of_lt below
  | arm | restart =>
    have hle : s.cur ≤ s.len := by simpa using hs
    exact hle
  | fail in_ =>
    have hle : s.cur ≤ s.len := by
      rcases hs with rfl | rfl | hle
      · simp [failures] at in_
      · simp [failures] at in_
      · exact hle
    exact hle

/-- Settles O20, by cases on the reactions; `LEN` is in their frame. -/
theorem cursorStaysWithinTheLength : Obligations.CursorStaysWithinTheLength := by
  intro i s t ign hi h hs
  have r := reaction_cases hi h
  exact ⟨r.cur_le_len hs, by rw [r.frame]⟩

end Sys2Proof.Machine
end

section
/-! SUPPORT. Write rights (10_state.md R42, 40_sequencer.md R149): for each register the micro-steps
that may move it, named; every other leaves it. -/

namespace Sys2Proof.Machine

variable {i : Instr} {s s0 t : State}

theorem MicroStep.errcnt_cases (m : MicroStep i s t) :
    t.errcnt = s.errcnt ∨ (i = .hQueryResult ∧ s.fpc = .Q3 ∧ s.tOk = false) := by
  cases m
  case queryQ3 l =>
    cases s.tOk with
    | true => exact .inl (by simp)
    | false => exact .inr ⟨rfl, l, rfl⟩
  all_goals exact .inl rfl

theorem MicroStep.buf_len_cases (m : MicroStep i s t) :
    (t.buf = s.buf ∧ t.len = s.len) ∨
      ((∃ b n, i = .hConfigure b n) ∧ (s.fpc = .C3 ∨ s.fpc = .C4)) := by
  cases m
  case configureC3 b n l => exact .inr ⟨⟨b, n, rfl⟩, .inl l⟩
  case configureC4 b n l => exact .inr ⟨⟨b, n, rfl⟩, .inr l⟩
  all_goals exact .inl ⟨rfl, rfl⟩

theorem MicroStep.br_port_cases (m : MicroStep i s t) :
    (t.br = s.br ∧ t.port = s.port) ∨ i = .hInit := by
  cases m
  case initI1 => exact .inr rfl
  case initI2 => exact .inr rfl
  all_goals exact .inl ⟨rfl, rfl⟩

theorem MicroStep.ok_cases (m : MicroStep i s t) :
    t.ok = s.ok ∨ (t.ok = false ∧ i = .hStart ∧ s.fpc = .S3) := by
  cases m
  case startS3 l => exact .inr ⟨rfl, rfl, l⟩
  all_goals exact .inl rfl

/-- A reaction leaves `OK`, or sets it and ends the transfer (40_sequencer.md R122, R131). -/
theorem ReactsTo.ok_cases (r : ReactsTo i s t) :
    t.ok = s.ok ∨ (t.ok = true ∧ t.cr.ie = false) := by
  cases r with
  | complete | storeLast => exact .inr ⟨rfl, rfl⟩
  | send from_ => rw [from_.frame]; exact .inl rfl
  | arm | store | restart | fail => exact .inl rfl

/-- No command begins at a label after the wait: what such a label grants, only a command in
progress has. -/
theorem firstLabel_ne_of_afterWait {l : Fpc} (a : l.isAfterWait = true) : firstLabel i ≠ l := by
  rintro rfl
  cases i <;> simp [firstLabel, Fpc.isAfterWait] at a

/-- The five rights of 10_state.md R42 and 40_sequencer.md R149, for one execution. -/
structure WriteRights (i : Instr) (s t : State) : Prop where
  errcnt : t.errcnt ≠ s.errcnt → i = .hQueryResult ∧ s.fpc = .Q3 ∧ s.tOk = false
  bufLen : t.buf ≠ s.buf ∨ t.len ≠ s.len →
    (∃ b n, i = .hConfigure b n) ∧ (s.fpc = .C3 ∨ s.fpc = .C4)
  brPort : t.br ≠ s.br ∨ t.port ≠ s.port → i = .hInit
  okSet : s.ok = false → t.ok = true → isReaction i = true ∧ t.cr.ie = false
  okCleared : s.ok = true → t.ok = false → i = .hStart ∧ s.fpc = .S3

theorem WriteRights.refl (i : Instr) (s : State) : WriteRights i s s where
  errcnt h := absurd rfl h
  bufLen h := by simp at h
  brPort h := by simp at h
  okSet h k := by simp [h] at k
  okCleared h k := by simp [h] at k

theorem ReactsTo.writeRights (hi : isReaction i = true) (r : ReactsTo i s t) :
    WriteRights i s t where
  errcnt h := h.elim (by rw [r.frame])
  bufLen h := h.elim (absurd (by rw [r.frame])) (absurd (by rw [r.frame]))
  brPort h := h.elim (absurd (by rw [r.frame])) (absurd (by rw [r.frame]))
  okSet h k := by
    rcases r.ok_cases with e | ⟨_, ie⟩
    · simp [e, h] at k
    · exact ⟨hi, ie⟩
  okCleared h k := by
    rcases r.ok_cases with e | ⟨e, _⟩
    · simp [e, h] at k
    · simp [e] at k

theorem MicroStep.writeRights (m : MicroStep i s t) : WriteRights i s t where
  errcnt h := m.errcnt_cases.resolve_left h
  bufLen h := m.buf_len_cases.resolve_left fun e => h.elim (absurd e.1) (absurd e.2)
  brPort h := m.br_port_cases.resolve_left fun e => h.elim (absurd e.1) (absurd e.2)
  okSet h k := by
    rcases m.ok_cases with e | ⟨e, _⟩
    · simp [e, h] at k
    · simp [e] at k
  okCleared h k := by
    rcases m.ok_cases with e | ⟨_, st⟩
    · simp [e, h] at k
    · exact st

/-- Beginning a command moves none of these registers, and it begins at none of the labels that
may. -/
theorem StepsFrom.writeRights (from_ : StepsFrom i s s0) (w : WriteRights i s0 t) :
    WriteRights i s t := by
  cases from_ with
  | going => exact w
  | first =>
    exact {
      errcnt := fun h => absurd (w.errcnt h).2.1 (firstLabel_ne_of_afterWait rfl)
      bufLen := fun h => ((w.bufLen h).2.elim
        (firstLabel_ne_of_afterWait rfl) (firstLabel_ne_of_afterWait rfl)).elim
      brPort := w.brPort
      okSet := w.okSet
      okCleared := fun h k => absurd (w.okCleared h k).2 (firstLabel_ne_of_afterWait rfl) }

theorem exec_writeRights (h : exec i s = .next t) : WriteRights i s t := by
  cases hi : isReaction i with
  | true => exact (reaction_cases hi h).writeRights hi
  | false =>
    obtain ⟨t', e, step⟩ := command_cases s hi
    obtain rfl : t' = t := by simpa [e] using h
    rcases step with rfl | ⟨s0, from_, m⟩
    · exact .refl i t'
    · exact from_.writeRights m.writeRights

/-- Settles O36, by the rights of reactions and of micro-steps. -/
theorem writeRightsOfEveryOperation : Obligations.WriteRightsOfEveryOperation := by
  intro i s t h
  obtain ⟨errcnt, bufLen, brPort, okSet, okCleared⟩ := exec_writeRights h
  exact ⟨errcnt, bufLen, brPort, okSet, okCleared⟩

end Sys2Proof.Machine
end

section
/-! SUPPORT. Reset (10_state.md R48): its values, after power-on and after the reset move, and the
invariant there. -/

namespace Sys2Proof.Machine

/-- The values 10_state.md R48 and 70_reset_and_hazards.md R241 give. -/
structure ResetState (s : State) : Prop where
  buf    : s.buf = s.cfg.null
  len    : s.len = 0
  cur    : s.cur = 0
  ok     : s.ok = false
  state  : s.state = s.cfg.codeNoState
  errcnt : s.errcnt = 0
  fop    : s.fop = .none
  wcnt   : s.wcnt = 0
  cr     : s.cr = ⟨false, false, false, false, false⟩
  iflag  : s.iflag = false
  armed  : s.armed = false
  tr     : s.tr = []

theorem resetFor_resetState (c : Cfg) : ResetState (State.resetFor c) := by
  constructor <;> rfl

theorem resetMachine_resetState (sr dr br : Byte) (port : Bool) (t : State) :
    ResetState (resetMachine sr dr br port t) := by
  constructor <;> rfl

/-- Settles O47: both ways to reset give the same values. -/
theorem resetValues : Obligations.ResetValues := by
  intro s t sr dr br port h
  have values : ResetState s := by
    rcases h with rfl | h
    · exact resetFor_resetState Cfg.pRef
    · cases h; exact resetMachine_resetState sr dr br port t
  obtain ⟨buf, len, cur, ok, state, errcnt, fop, wcnt, cr, iflag, armed, tr⟩ := values
  refine ⟨buf, len, cur, ok, state, errcnt, fop, wcnt, cr, iflag, armed, tr, fun moved => ?_⟩
  cases moved
  exact ⟨rfl, rfl, rfl, rfl, rfl, rfl⟩

/-- With no command in progress the façade relies on nothing. -/
theorem FacadeInv.of_noCommand {s : State} (h : s.fop = .none) : FacadeInv s := by
  constructor <;> simp [h, labelOf]

/-- While idle all that is asked of a transfer is the one event (43_controller_env.md R187). -/
theorem BusyInv.of_idle {s : State} (ie : s.cr.ie = false)
    (one : s.armed = true → s.iflag = false) : BusyInv s := by
  constructor <;> simp_all

/-- After a reset the invariant rests on the parameters and on the host's storage. -/
theorem ResetState.inv {s : State} (r : ResetState s) (cfgValid : s.cfg.Valid)
    (memWf : Memory.wf s.mem)
    (memFits : ∀ a, (s.mem.read a).isSome = true → s.addrExists a = true) : Inv s where
  fits := {
    cfgValid, memWf, memFits
    buf := r.buf ▸ cfgValid.nullFits
    len := by simp [r.len]
    cur := by simp [r.cur]
    errcnt := by simp [r.errcnt]
    wcnt := by simp [r.wcnt] }
  facade := .of_noCommand r.fop
  busy := .of_idle (by rw [r.cr]) fun _ => r.iflag

theorem resetFor_inv {c : Cfg} (valid : c.Valid) : Inv (State.resetFor c) :=
  (resetFor_resetState c).inv valid List.Pairwise.nil nofun

/-- Settles O48, for every valid configuration, of which the reference profile is one. -/
theorem resetMeetsTheInvariant : Obligations.ResetMeetsTheInvariant :=
  ⟨fun _ valid => resetFor_inv valid, resetFor_inv Cfg.pRef_valid⟩

end Sys2Proof.Machine
end

section
/-! SUPPORT. The invariant under the operations on the state that several agents share: a store to
the buffer space, a write of `CR`, a move that writes none of what the invariant speaks of. -/

namespace Sys2Proof.Machine

variable {s t : State}

/-- What `CR.IE = 1` asks of the block's registers and of the storage: a transfer not succeeded,
configured and stored (10_state.md R44, R45, 20_memory.md R62). -/
def TransferReady (s : State) : Prop :=
  s.ok = false ∧ s.buf ≠ s.cfg.null ∧ s.storageValid = true

theorem BusyInv.transferReady (b : BusyInv s) (ie : s.cr.ie = true) : TransferReady s :=
  ⟨b.notOk ie, b.configured ie, b.storage ie⟩

/-- A write of any command word leaves the transfer with a next event possible or the block idle
(43_controller_env.md R187). -/
theorem BusyInv.writeCR (w : CmdWord) (s : State)
    (ready : w.fields.ie = true → TransferReady s) : BusyInv (s.writeCR w) where
  notOk ie := (ready ie).1
  configured ie := (ready ie).2.1
  storage ie := (ready ie).2.2
  pendingEvent ie := by cases w <;> simp_all [CmdWord.fields]
  enabled ie := by cases w <;> simp_all [CmdWord.fields]
  oneEvent armed := by cases w <;> simp_all [CmdWord.fields]

/-- A memory that holds every buffer byte the old one held has the launch's storage too. -/
theorem storageValid_of_read {m : Memory} (h : s.storageValid = true)
    (keeps : ∀ i < s.len, (s.mem.read (s.bufAddr i)).isSome = true →
      (m.read (s.bufAddr i)).isSome = true) :
    ({ s with mem := m } : State).storageValid = true := by
  rw [storageValid_iff] at h ⊢
  intro i hi
  obtain ⟨exists_, held⟩ := (allocated_iff s i).1 (h i hi)
  exact (allocated_iff _ i).2 ⟨exists_, keeps i hi held⟩

/-- A store frees nothing. -/
theorem storageValid_write (h : s.storageValid = true) (a : Nat) (v : Byte) :
    ({ s with mem := s.mem.write a v } : State).storageValid = true :=
  storageValid_of_read h fun i _ held => by
    rw [Memory.read_write]
    split
    · rfl
    · exact held

/-- A free outside the buffer leaves the buffer's storage. -/
theorem storageValid_erase (h : s.storageValid = true) {a : Nat} (out : s.inBuffer a = false) :
    ({ s with mem := s.mem.erase a } : State).storageValid = true :=
  storageValid_of_read h fun i hi held => by
    have other : s.bufAddr i ≠ a := by
      rintro rfl
      rw [Bool.eq_false_iff, ne_eq, inBuffer_iff] at out
      exact out ⟨Nat.le_add_right .., Nat.add_lt_add_left hi _⟩
    rwa [Memory.read_erase_other s.mem other]

/-- A store to an address of the buffer space keeps the memory canonical and in range. -/
theorem Fits.write (f : Fits s) {a : Nat} (ha : s.addrExists a = true) (v : Byte) :
    Fits { s with mem := s.mem.write a v } :=
  { f with
    memWf := Memory.wf_write f.memWf a v
    memFits := fun b hb => by
      change ((s.mem.write a v).read b).isSome = true at hb
      rw [Memory.read_write] at hb
      split at hb
      · rename_i e; subst e; exact ha
      · exact f.memFits b hb }

theorem Fits.erase (f : Fits s) (a : Nat) : Fits { s with mem := s.mem.erase a } :=
  { f with
    memWf := Memory.wf_erase f.memWf a
    memFits := fun b hb => by
      change ((s.mem.erase a).read b).isSome = true at hb
      by_cases e : b = a
      · simp [e, Memory.read_erase_same f.memWf a] at hb
      · rw [Memory.read_erase_other s.mem e] at hb
        exact f.memFits b hb }

/-- A move within these fields keeps the invariant: no clause of it reads one of them. -/
theorem Inv.of_frame (h : Inv s)
    (frame : t = { s with
      state := t.state, cr := { s.cr with sto := t.cr.sto }, sr := t.sr, dr := t.dr, hc := t.hc,
      elapsed := t.elapsed, refBus := t.refBus, pending := t.pending, draws := t.draws }) :
    Inv t := by
  rw [frame]
  exact ⟨{ h.fits with }, { h.facade with }, { h.busy with }⟩

end Sys2Proof.Machine
end

section
/-! SUPPORT. The invariant under the sequencer's reactions. -/

namespace Sys2Proof.Machine

variable {i : Instr} {s s0 t : State}

theorem SendsFrom.fits (from_ : SendsFrom i s s0) (f : Fits s) : Fits s0 := by
  cases from_ with
  | start | repeatedStart => exact { f with cur := Nat.two_pow_pos _ }
  | writeAddressAck | writeDataAck => exact f

/-- A reaction advances the cursor only below `LEN`, and stores only where storage is allocated
(40_sequencer.md R146 a, R148). -/
theorem ReactsTo.fits (r : ReactsTo i s t) (f : Fits s) : Fits t := by
  cases r with
  | send from_ below =>
    have f0 := from_.fits f
    exact { f0 with cur := Nat.lt_of_le_of_lt below f0.len }
  | complete from_ => exact { from_.fits f with }
  | store _ below alloc =>
    have written := f.write ((allocated_iff s _).1 alloc).1 s.dr
    exact { written with cur := Nat.lt_of_le_of_lt below f.len }
  | storeLast _ _ alloc => exact { f.write ((allocated_iff s _).1 alloc).1 s.dr with }
  | arm | restart | fail => exact { f with }

/-- Every reaction ends in one `CR` write: of a word that keeps the transfer going over registers
and storage as it found them, or of a word that ends it. -/
theorem ReactsTo.busyInv (r : ReactsTo i s t) (ready : TransferReady s) : BusyInv t := by
  have written : TransferReady { s with mem := s.mem.write (s.bufAddr s.cur) s.dr } :=
    ⟨ready.1, ready.2.1, storageValid_write ready.2.2 _ _⟩
  cases r with
  | send from_ =>
    refine .writeCR .send _ fun _ => ?_
    cases from_ <;> exact ready
  | complete => exact .writeCR .stop _ nofun
  | arm => exact .writeCR _ s fun _ => ready
  | store => exact .writeCR _ _ fun _ => written
  | storeLast => exact .writeCR .stop _ nofun
  | restart => exact .writeCR .restart s fun _ => ready
  | fail => exact .writeCR .reset _ nofun

/-- A reaction runs while `CR.IE = 1`, so no command stands after the wait, and it moves nothing a
command relies on before. -/
theorem ReactsTo.facadeInv (r : ReactsTo i s t) (h : FacadeInv s) (ie : s.cr.ie = true) :
    FacadeInv t := by
  have notAfter : s.fop ≠ .none → s.fpc.isAfterWait = true → False := fun op l => by
    simp [h.idle op l] at ie
  rw [r.frame]
  exact { h with
    idle := fun op l => (notAfter op l).elim
    outcomeReset := fun (op : s.fop = .start) l =>
      (notAfter (by simp [op]) (by rcases l with l | l <;> exact congrArg Fpc.isAfterWait l)).elim }

theorem ReactsTo.inv (r : ReactsTo i s t) (h : Inv s) (ie : s.cr.ie = true) : Inv t :=
  ⟨r.fits h.fits, r.facadeInv h.facade ie, r.busyInv (h.busy.transferReady ie)⟩

theorem sequencerTurn_inv (h : Inv s) (moved : sequencerTurn s = .next t) : Inv t := by
  rcases sequencerTurn_cases moved with ⟨rfl, _⟩ | ⟨ie, _, e⟩
  · exact h
  · exact (reaction_cases (isReaction_decodeStatus s.cfg s.sr) e).inv h ie

end Sys2Proof.Machine
end

section
/-! SUPPORT. The invariant under the façade's micro-steps. A command that has just begun stands at a
label no command in progress holds, where only its operands are known; at every other label the
façade's invariant holds. -/

namespace Sys2Proof.Machine

variable {i : Instr} {s s0 t : State}

/-- The labels at which a command begins and which it has left before its next micro-step. -/
def Fpc.isEntry : Fpc → Bool
  | .I1 | .B1 | .C1 | .S1 | .L1 | .E1 => true
  | .I2 | .I3 | .C3 | .C4 | .S3 | .S4 | .S5 | .Q2 | .Q3 | .W0 | .W1 | .W2 | .T1 | .T2 => false

/-- A launch comes next only with its storage allocated (20_memory.md R62): the façade's move
checks it. -/
def LaunchStored (s : State) : Prop :=
  s.fop = .start → s.fpc = .S5 → s.storageValid = true

/-- What a micro-step of a command may rely on. -/
structure Ready (i : Instr) (s : State) : Prop where
  command  : s.fop = commandOf i
  running  : s.fop ≠ .none
  operands : i.WellFormed s.cfg
  facade   : s.fpc.isEntry = false → FacadeInv s
  launch   : LaunchStored s

theorem Ready.facadeAt (r : Ready i s) {l : Fpc} (at_ : s.fpc = l) (inside : l.isEntry = false) :
    FacadeInv s :=
  r.facade (by rw [at_, inside])

/-- The one command that begins inside, at the wait itself, relies on nothing there. -/
theorem FacadeInv.of_queryWait (op : s.fop = .queryResult) (l : s.fpc = .W0) : FacadeInv s := by
  constructor <;> simp [op, l, labelOf, Fpc.isWait, Fpc.isAfterWait]

/-- Every host command is the meaning of some `FOP`. -/
theorem commandOf_ne_none (hi : isReaction i = false) : commandOf i ≠ .none := by
  cases i <;> simp [isReaction, commandOf] at hi ⊢

theorem StepsFrom.ready (from_ : StepsFrom i s s0) (hi : isReaction i = false) (h : FacadeInv s)
    (wf : i.WellFormed s.cfg) (launch : LaunchStored s) : Ready i s0 := by
  cases from_ with
  | going running same => exact ⟨same, running, wf, fun _ => h, launch⟩
  | first =>
    refine ⟨rfl, commandOf_ne_none hi, wf, fun inside => ?_,
      fun _ l => (firstLabel_ne_of_afterWait rfl l).elim⟩
    cases i
    case hQueryResult => exact .of_queryWait rfl rfl
    all_goals simp [firstLabel, Fpc.isEntry] at inside

/-- The command in progress is well formed: its operands are the latched ones. -/
theorem command_wellFormed (h : FacadeInv s) (c : s.command = some i) : i.WellFormed s.cfg := by
  unfold State.command at c
  split at c <;> cases c
  case h_4 op => exact ⟨(h.latched op).1, (h.latched op).2.1⟩
  all_goals trivial

/-! ### From one label to the next -/

theorem Fpc.not_afterWait_of_isWait {l : Fpc} (h : l.isWait = true) : l.isAfterWait = false := by
  cases l <;> simp_all [Fpc.isWait, Fpc.isAfterWait]

/-- A command that may stand at one label of the wait may stand at every one. -/
theorem labelOf_wait {op : Fop} {l l' : Fpc} (h : labelOf op l = true) (from_ : l.isWait = true)
    (to_ : l'.isWait = true) : labelOf op l' = true := by
  cases op
  case init => cases l <;> simp_all [labelOf, Fpc.isWait]
  all_goals simp_all [labelOf]

/-- The label after the wait is one of the command's own, and not one that `start` reaches later. -/
theorem waiters_label {op : Fop} {r : Fpc} {b n : Nat} (w : (op, i, r) ∈ waiters b n) :
    labelOf (commandOf i) r = true ∧ r ≠ .W2 ∧ r ≠ .S4 ∧ r ≠ .S5 := by
  simp only [waiters, List.mem_cons, List.not_mem_nil, or_false, Prod.mk.injEq] at w
  rcases w with ⟨_, rfl, rfl⟩ | ⟨_, rfl, rfl⟩ | ⟨_, rfl, rfl⟩ <;> simp [commandOf, labelOf]

/-- One command before and after a micro-step, with its operands and the buffer it is about. -/
structure SameCommand (s t : State) : Prop where
  cfg  : t.cfg = s.cfg
  fop  : t.fop = s.fop
  buf  : t.buf = s.buf
  aBuf : t.aBuf = s.aBuf
  aLen : t.aLen = s.aLen

/-- A command goes on from one label to another: what it latched and the buffer stay, and the next
label brings its own duties. -/
theorem FacadeInv.goOn (h : FacadeInv s) (same : SameCommand s t)
    (label : labelOf s.fop t.fpc = true)
    (delaying : t.fpc = .W2 → t.wcnt < t.cfg.waitBudget)
    (idle : t.fpc.isAfterWait = true → t.cr.ie = false)
    (outcome : t.fpc = .S4 ∨ t.fpc = .S5 → t.ok = false) : FacadeInv t := by
  obtain ⟨cfg, fop, buf, aBuf, aLen⟩ := same
  exact {
    label := fop ▸ label
    delaying := fun _ => delaying
    latched := by rw [fop, aBuf, aLen, cfg]; exact h.latched
    configured := by rw [fop, buf, cfg]; exact h.configured
    idle := fun _ => idle
    outcomeReset := fun _ => outcome }

/-- Within the wait only the delay has a duty. -/
theorem FacadeInv.goOnWaiting (h : FacadeInv s) (same : SameCommand s t)
    (from_ : s.fpc.isWait = true) (to_ : t.fpc.isWait = true)
    (delaying : t.fpc = .W2 → t.wcnt < t.cfg.waitBudget) : FacadeInv t :=
  h.goOn same (labelOf_wait h.label from_ to_) delaying
    (fun l => by simp [Fpc.not_afterWait_of_isWait to_] at l)
    (fun l => by rcases l with l | l <;> simp [l, Fpc.isWait] at to_)

/-- The wait returns with the block idle (42_recovery.md R175). -/
theorem Ready.leaveWait (ready : Ready i s) (h : FacadeInv s) {op : Fop} {b n : Nat}
    (w : (op, i, t.fpc) ∈ waiters b n) (same : SameCommand s t) (ie : t.cr.ie = false) : FacadeInv t := by
  obtain ⟨label, notW2, notS4, notS5⟩ := waiters_label w
  exact h.goOn same (by rw [ready.command]; exact label) (fun l => absurd l notW2) (fun _ => ie)
    (fun l => (l.elim notS4 notS5).elim)

/-! ### The three parts of the invariant -/

theorem MicroStep.facadeInv (m : MicroStep i s t) (r : Ready i s) : FacadeInv t := by
  have op := r.command
  cases m with
  | initI1 | initI2 =>
    constructor <;> simp [op, commandOf, labelOf, Fpc.isAfterWait]
  | initI3 | busyB1 | lastStatusL1 | errorCountE1 | configureNull | configureC4 | startNull
  | startS5 | queryQ3 => exact .of_noCommand rfl
  | configureC1 b n _ given =>
    constructor <;>
      simp [op, commandOf, labelOf, Fpc.isWait, Fpc.isAfterWait, given, r.operands.1, r.operands.2]
  | configureC3 _ _ l =>
    have h := r.facadeAt l rfl
    have ie : s.cr.ie = false := h.idle r.running (by rw [l]; rfl)
    have latched := h.latched op
    constructor <;> simp [op, commandOf, labelOf, ie, latched]
  | startS1 _ given =>
    constructor <;> simp [op, commandOf, labelOf, Fpc.isWait, Fpc.isAfterWait, given]
  | startS3 l =>
    have h := r.facadeAt l rfl
    exact h.goOn ⟨rfl, rfl, rfl, rfl, rfl⟩ (by rw [op]; rfl) nofun
      (fun _ => h.idle r.running (by rw [l]; rfl)) (fun _ => rfl)
  | startS4 l =>
    have h := r.facadeAt l rfl
    exact h.goOn ⟨rfl, rfl, rfl, rfl, rfl⟩ (by rw [op]; rfl) nofun
      (fun _ => h.idle r.running (by rw [l]; rfl))
      (fun _ => h.outcomeReset op (.inl l))
  | queryQ2 l =>
    have h := r.facadeAt l rfl
    exact h.goOn ⟨rfl, rfl, rfl, rfl, rfl⟩ (by rw [op]; rfl) nofun
      (fun _ => h.idle r.running (by rw [l]; rfl)) nofun
  | waitW0 l | waitOut l | waitW2 l | waitT1 l =>
    exact (r.facadeAt l rfl).goOnWaiting ⟨rfl, rfl, rfl, rfl, rfl⟩ (by rw [l]; rfl) rfl nofun
  | waitDelay l _ left =>
    exact (r.facadeAt l rfl).goOnWaiting ⟨rfl, rfl, rfl, rfl, rfl⟩ (by rw [l]; rfl) rfl
      fun _ => left
  | waitIdle w l idle => exact r.leaveWait (r.facadeAt l rfl) w ⟨rfl, rfl, rfl, rfl, rfl⟩ idle
  | waitT2 w l => exact r.leaveWait (r.facadeAt l rfl) w ⟨rfl, rfl, rfl, rfl, rfl⟩ rfl

theorem MicroStep.fits (m : MicroStep i s t) (r : Ready i s) (f : Fits s) : Fits t := by
  have op := r.command
  cases m
  case configureC3 l =>
    exact { f with buf := ((r.facadeAt l rfl).latched op).1 }
  case configureC4 l =>
    exact { f with len := ((r.facadeAt l rfl).latched op).2.1 }
  case queryQ3 =>
    refine { f with errcnt := ?_ }
    change (if s.tOk then s.errcnt else incErrcnt s.cfg s.errcnt) < _
    split
    · exact f.errcnt
    · exact incErrcnt_lt f.errcnt
  case waitW0 => exact { f with wcnt := Nat.zero_le _ }
  case waitW2 l _ =>
    exact { f with wcnt := (r.facadeAt l rfl).delaying r.running l }
  all_goals exact { f with }

theorem MicroStep.busyInv (m : MicroStep i s t) (r : Ready i s) (b : BusyInv s) : BusyInv t := by
  have op := r.command
  cases m
  case initI3 | waitT2 => exact { BusyInv.writeCR .idle s nofun with }
  case configureC3 l | configureC4 l =>
    have ie := (r.facadeAt l rfl).idle r.running (by rw [l]; rfl)
    exact .of_idle ie b.oneEvent
  case startS3 => exact { b with notOk := fun _ => rfl }
  case startS5 l =>
    have h := r.facadeAt l rfl
    exact { BusyInv.writeCR .start s fun _ =>
      ⟨h.outcomeReset op (.inr l), h.configured op, r.launch op l⟩ with }
  all_goals exact { b with }

theorem exec_command_inv (hi : isReaction i = false) (h : Inv s) (wf : i.WellFormed s.cfg)
    (launch : LaunchStored s) (e : exec i s = .next t) : Inv t := by
  obtain ⟨t', e', step⟩ := command_cases s hi
  obtain rfl : t' = t := by simpa [e'] using e
  rcases step with rfl | ⟨s0, from_, m⟩
  · exact h
  · have ready := from_.ready hi h.facade wf launch
    have f0 : Fits s0 := by cases from_ <;> exact { h.fits with }
    have b0 : BusyInv s0 := by cases from_ <;> exact { h.busy with }
    exact ⟨m.fits ready f0, m.facadeInv ready, m.busyInv ready b0⟩

theorem facadeTurn_inv (h : Inv s) (moved : facadeTurn s = .next t) : Inv t := by
  rcases facadeTurn_cases moved with ⟨rfl, _⟩ | ⟨i, none_, hi, wf, e⟩ | ⟨i, c, launch, e⟩
  · exact h
  · exact exec_command_inv hi h wf (fun start => by simp [none_] at start) e
  · exact exec_command_inv (command_some c).1 h (command_wellFormed h.facade c) launch e

end Sys2Proof.Machine
end

section
/-! SUPPORT. The invariant under the environment's moves, under every step, and in every reachable
state. -/

namespace Sys2Proof.Machine

variable {s t : State}

/-- A report takes the controller from armed to event pending (43_controller_env.md R186). -/
theorem controllerEvent_inv (h : Inv s) (status data other : Byte) :
    Inv (controllerEvent status data other s) := by
  rcases controllerEvent_cases status data other s with ⟨e, _⟩ | ⟨_, _, _, d, e⟩
  · rwa [e]
  · rw [e]
    exact {
      fits := { h.fits with }
      facade := { h.facade with }
      busy := { h.busy with
        pendingEvent := fun _ => .inr rfl
        oneEvent := nofun } }

theorem refBusEvent_inv (h : Inv s) (data other : Byte) : Inv (refBusEvent data other s) := by
  rcases refBusEvent_cases data other s with ⟨st, d, r, e⟩ | ⟨r, e⟩
  · rw [e]; exact (controllerEvent_inv h st d other).of_frame rfl
  · rw [e]; exact h.of_frame rfl

theorem refBusReplaced_inv (h : Inv s) (status data other : Byte) :
    Inv (refBusReplaced status data other s) := by
  obtain ⟨r, e⟩ := refBusReplaced_cases status data other s
  rw [e]
  exact (controllerEvent_inv h status data other).of_frame rfl

theorem hostPresent_inv (h : Inv s) (w : HostWord) : Inv (hostPresent w s) := by
  unfold hostPresent
  split
  · exact h.of_frame rfl
  · exact h

/-- What the host may touch: an address of the buffer space, and while busy none of the buffer. -/
theorem hostForbidden_eq_false {a : Nat} (h : hostForbidden a s = false) :
    s.addrExists a = true ∧ (s.cr.ie = true → s.inBuffer a = false) := by
  simpa [hostForbidden, State.busy] using h

theorem hostStore_inv (h : Inv s) {a : Nat} {v : Byte} (moved : hostStore a v s = .next t) :
    Inv t := by
  unfold hostStore at moved
  split at moved
  · cases moved
  · rename_i allowed
    obtain ⟨exists_, _⟩ := hostForbidden_eq_false (by simpa using allowed)
    cases moved
    exact {
      fits := h.fits.write exists_ v
      facade := { h.facade with }
      busy := { h.busy with storage := fun ie => storageValid_write (h.busy.storage ie) a v } }

theorem hostFree_inv (h : Inv s) {a : Nat} (moved : hostFree a s = .next t) : Inv t := by
  unfold hostFree at moved
  split at moved
  · cases moved
  · rename_i allowed
    obtain ⟨_, outside⟩ := hostForbidden_eq_false (by simpa using allowed)
    cases moved
    exact {
      fits := h.fits.erase a
      facade := { h.facade with }
      busy := { h.busy with
        storage := fun ie => storageValid_erase (h.busy.storage ie) (outside ie) } }

/-- Every move of every agent keeps the invariant. -/
theorem agentTurn_inv {c : Choice} (h : Inv s) (moved : agentTurn c s = .next t) : Inv t := by
  cases c with
  | sequencer => exact sequencerTurn_inv h moved
  | facade => exact facadeTurn_inv h moved
  | event status data other => cases moved; exact controllerEvent_inv h status data other
  | refBus data other => cases moved; exact refBusEvent_inv h data other
  | refBusReplaced status data other => cases moved; exact refBusReplaced_inv h status data other
  | stopEmitted => cases moved; exact h.of_frame rfl
  | tick => cases moved; exact h.of_frame rfl
  | present w => cases moved; exact hostPresent_inv h w
  | hostStore a v => exact hostStore_inv h moved
  | hostFree a => exact hostFree_inv h moved
  | reset sr dr br port =>
    cases moved
    exact (resetMachine_resetState sr dr br port s).inv h.fits.cfgValid h.fits.memWf h.fits.memFits

/-- Settles O49: a step is one agent's move, and taking its choice moves nothing the invariant
reads. -/
theorem everyStepKeepsTheInvariant : Obligations.EveryStepKeepsTheInvariant := by
  intro s t h moved
  unfold step at moved
  split at moved
  · exact agentTurn_inv (h.of_frame rfl) moved
  · exact agentTurn_inv (h.of_frame rfl) moved

theorem Reachable.inv (reached : Reachable s) : Inv s := by
  induction reached with
  | reset _ valid => exact resetFor_inv valid
  | move _ _ _ _ moved ih => exact agentTurn_inv ih moved

/-- Settles O50, by the invariant of the reachable states. -/
theorem busyImpliesNotSucceeded : Obligations.BusyImpliesNotSucceeded :=
  fun _ reached => reached.inv.busy.notOk

/-- Settles O51, by the invariant of the reachable states. -/
theorem busyImpliesConfigured : Obligations.BusyImpliesConfigured :=
  fun _ reached => reached.inv.busy.configured

end Sys2Proof.Machine
end

section
/-! SUPPORT. The buffer space (20_memory.md): which accesses of the reactions stop and how, what the
host may do to its storage, and that the pending choices are taken in order. -/

namespace Sys2Proof.Machine

variable {i : Instr} {s s0 : State} {a : Nat}

/-! ### The reactions' accesses -/

/-- A sending reaction is `TX` on the state it sends from (40_sequencer.md R125 to R128). -/
theorem SendsFrom.exec_eq_tx (from_ : SendsFrom i s s0) : exec i s = tx s0 := by
  cases from_ <;> rfl

/-- A sending reaction stops at a byte that is not allocated (20_memory.md R62). -/
theorem SendsFrom.exec_unallocated (from_ : SendsFrom i s s0) (below : s0.cur < s0.len)
    (free : s0.allocated s0.cur = false) : exec i s = .fault .storageInvalid :=
  from_.exec_eq_tx.trans (tx_unallocated below free)

/-- A storing reaction stops as its access to the byte at the cursor stops (40_sequencer.md R130,
R131). -/
theorem exec_store_fault {f : Fault} (store : isStore i = true)
    (stops : s.bufWrite s.cur s.dr = .error f) : exec i s = .fault f := by
  cases i
  case sReadDataAck => simp only [exec, execSReadDataAck, stops]
  case sReadDataNack => simp only [exec, execSReadDataNack, stops]
  all_goals cases store

/-- Settles O13, by the bounds of `BufWrite`. -/
theorem readReactionsFaultBeyondTheBuffer : Obligations.ReadReactionsFaultBeyondTheBuffer := by
  intro ign s beyond i hi
  have store : isStore i = true := by
    simp only [List.mem_cons, List.not_mem_nil, or_false] at hi
    rcases hi with rfl | rfl <;> rfl
  exact exec_store_fault store (bufWrite_bounds s.dr beyond)

/-- Settles O14: four of the reactions send from the cursor or from byte 0, two store at the
cursor. -/
theorem accessToUnallocatedStorageFaults : Obligations.AccessToUnallocatedStorageFaults := by
  intro ign s
  refine ⟨fun below free i hi => ?_, fun below free i hi => ?_⟩
  · have stops := bufWrite_unallocated s.dr below free
    simp only [List.mem_cons, List.not_mem_nil, or_false] at hi
    rcases hi with rfl | rfl | rfl | rfl
    · exact (SendsFrom.writeAddressAck ign s).exec_unallocated below free
    · exact (SendsFrom.writeDataAck ign s).exec_unallocated below free
    · exact exec_store_fault rfl stops
    · exact exec_store_fault rfl stops
  · simp only [List.mem_cons, List.not_mem_nil, or_false] at hi
    rcases hi with rfl | rfl
    · exact (SendsFrom.start ign s).exec_unallocated below free
    · exact (SendsFrom.repeatedStart ign s).exec_unallocated below free

/-! ### The host's storage -/

/-- At an address of the buffer space only the buffer of a transfer in flight is forbidden. -/
theorem hostForbidden_iff (exists_ : s.addrExists a = true) :
    hostForbidden a s = true ↔ s.cr.ie = true ∧ s.buf ≤ a ∧ a < s.buf + s.len := by
  rw [hostForbidden, exists_, Bool.not_true, Bool.false_or, Bool.and_eq_true, inBuffer_iff,
    State.busy]

/-- A change that is not forbidden: the block is idle or the address is outside its buffer. -/
theorem not_hostForbidden (exists_ : s.addrExists a = true)
    (allowed : s.cr.ie = false ∨ a < s.buf ∨ s.buf + s.len ≤ a) : ¬ hostForbidden a s = true := by
  rw [hostForbidden_iff exists_]
  rintro ⟨ie, low, high⟩
  rcases allowed with idle | below | above
  · exact absurd ie (by simp [idle])
  · omega
  · omega

/-- Settles O41: a change that is not forbidden moves the one byte of the memory. -/
theorem hostStorageIsStableWhileBusy : Obligations.HostStorageIsStableWhileBusy := by
  intro s a v exists_
  refine ⟨fun ie low high => ?_, fun allowed => ?_, fun allowed wf => ?_⟩
  · have forbidden := (hostForbidden_iff exists_).2 ⟨ie, low, high⟩
    exact ⟨if_pos forbidden, if_pos forbidden⟩
  · exact ⟨_, if_neg (not_hostForbidden exists_ allowed), Memory.read_write_same s.mem a v, rfl,
      fun _ other => Memory.read_write_other s.mem v other⟩
  · exact ⟨_, if_neg (not_hostForbidden exists_ allowed), Memory.read_erase_same wf a, rfl,
      fun _ other => Memory.read_erase_other s.mem other⟩

/-! ### The order of the pending choices -/

/-- A step takes the first pending choice and leaves the rest (20_memory.md R69, log 5). -/
theorem step_withPending_cons (c : Choice) (rest : List Choice) (s : State) :
    core.step (s.withPending (c :: rest)) = pendingOf rest (agentTurn c s) :=
  agentTurn_withPending rest s c

/-- Settles O46, by induction on the list of choices: both sides make the first move of the same
agent, since no move depends on what is pending. -/
theorem runsTakeThePendingChoicesInOrder : Obligations.RunsTakeThePendingChoicesInOrder := by
  intro cs rest s
  change core.run cs.length (s.withPending (cs ++ rest)) = turns cs (s.withPending rest)
  induction cs generalizing s with
  | nil => rfl
  | cons c cs ih =>
    simp only [List.length_cons, List.cons_append, Host.Core.run, turns, step_withPending_cons,
      agentTurn_withPending]
    cases agentTurn c s with
    | next t => exact ih t
    | fault | refused => rfl

end Sys2Proof.Machine
end

section
/-! SUPPORT. The encodings (30_encoding.md): decode and encode undo each other, a host command word
is read by HC_OP alone except for `configure`, and a control word holds one field at each position. -/

namespace Sys2Proof

open Machine

/-! ### Decoding and encoding undo each other -/

/-- Settles O1: one round trip per operation. -/
theorem decodeOfEncodeIsTheOperation : Obligations.DecodeOfEncodeIsTheOperation := by
  intro c i v w
  cases i with
  | sStart ign => exact Laws.RoundTrip.sStart ign c v w
  | sRepeatedStart ign => exact Laws.RoundTrip.sRepeatedStart ign c v w
  | sWriteAddressAck ign => exact Laws.RoundTrip.sWriteAddressAck ign c v w
  | sWriteDataAck ign => exact Laws.RoundTrip.sWriteDataAck ign c v w
  | sReadAddressAck ign => exact Laws.RoundTrip.sReadAddressAck ign c v w
  | sReadDataAck ign => exact Laws.RoundTrip.sReadDataAck ign c v w
  | sReadDataNack ign => exact Laws.RoundTrip.sReadDataNack ign c v w
  | sArbitrationLost ign => exact Laws.RoundTrip.sArbitrationLost ign c v w
  | sWriteAddressNack ign => exact Laws.RoundTrip.sWriteAddressNack ign c v w
  | sReadAddressNack ign => exact Laws.RoundTrip.sReadAddressNack ign c v w
  | sWriteDataNack ign => exact Laws.RoundTrip.sWriteDataNack ign c v w
  | sBusError ign => exact Laws.RoundTrip.sBusError ign c v w
  | sUnrecognized code ign => exact Laws.RoundTrip.sUnrecognized code ign c v w
  | hInit => exact Laws.RoundTrip.hInit c v w
  | hBusy => exact Laws.RoundTrip.hBusy c v w
  | hConfigure hcBuf hcLen => exact Laws.RoundTrip.hConfigure hcBuf hcLen c v w
  | hStart => exact Laws.RoundTrip.hStart c v w
  | hQueryResult => exact Laws.RoundTrip.hQueryResult c v w
  | hLastStatus => exact Laws.RoundTrip.hLastStatus c v w
  | hErrorCount => exact Laws.RoundTrip.hErrorCount c v w

/-- Encoding what status decode answers puts the code and the ignored bits together again, whichever
class the code selects (30_encoding.md R91, R92). -/
theorem encode_decodeStatus (c : Cfg) (b : Byte) : encode c (decodeStatus c b) = .srb b := by
  have joined : encode c (decodeStatus c b) = .srb (statusCode c b ||| statusIgnored c b) := by
    rcases decodeStatus_cases c b with
      ⟨h, e⟩ | ⟨h, e⟩ | ⟨h, e⟩ | ⟨h, e⟩ | ⟨h, e⟩ | ⟨h, e⟩ | ⟨h, e⟩ | ⟨h, e⟩ | ⟨h, e⟩ | ⟨h, e⟩ |
      ⟨h, e⟩ | ⟨h, e⟩ | ⟨h, e⟩ <;> simp only [e, h, encode]
  rw [joined, statusCode_or_statusIgnored]

/-- Settles O2: status decode answers every byte. -/
theorem statusDecodeIsTotalAndLosesNoBit : Obligations.StatusDecodeIsTotalAndLosesNoBit :=
  fun c b => ⟨decodeStatus c b, rfl, isReaction_decodeStatus c b, decodeStatus_wellFormed c b,
    encode_decodeStatus c b⟩

/-- Settles O4: each of the words is the encoding of its operation. -/
theorem writtenOutWordsDecode : Obligations.WrittenOutWordsDecode := by
  have roundTrip (i : Instr) (w : i.WellFormed Cfg.pRef) :=
    decodeOfEncodeIsTheOperation Cfg.pRef i Cfg.pRef_valid w
  exact ⟨roundTrip (.sStart 0) (by decide), roundTrip (.sWriteDataAck 3) (by decide),
    roundTrip (.sReadDataNack 7) (by decide), roundTrip (.sBusError 7) (by decide),
    roundTrip (.sUnrecognized 0xF8 7) (by decide), roundTrip (.hConfigure 0x0100 3) (by decide)⟩

/-! ### Host command words -/

/-- HC_OP 2 decodes by whether its operands fit (30_encoding.md R97, log 10). -/
theorem decodeHost_configure (c : Cfg) (b l : Nat) :
    decodeHost c ⟨2, b, l⟩ =
      if b < 2 ^ c.addrWidth ∧ l < 2 ^ c.lenWidth then .ok (.hConfigure b l)
      else .error .operandTooWide := rfl

/-- Settles O3: only HC_OP 2 looks at its operands. -/
theorem hostCommandNumbersDecode : Obligations.HostCommandNumbersDecode := by
  intro c b l
  refine ⟨rfl, rfl, fun hb hl => ?_, fun wide => ?_, rfl, rfl, rfl, rfl, rfl⟩
  · exact (decodeHost_configure c b l).trans (if_pos ⟨hb, hl⟩)
  · exact (decodeHost_configure c b l).trans (if_neg (by omega))

/-! ### Control words -/

/-- A field is one bit, at its position. -/
theorem fieldBit_getLsbD (pos : Fin 8) (v : Bool) (k : Nat) :
    (fieldBit pos v).getLsbD k = (v && decide (k = pos.val)) := by
  cases v with
  | false => simp [fieldBit]
  | true =>
    rw [Bool.eq_iff_iff]
    simp only [fieldBit, ↓reduceIte, BitVec.ofNat_eq_ofNat, BitVec.getLsbD_shiftLeft,
      BitVec.getLsbD_one, Nat.ofNat_pos, decide_true, Bool.true_and, Bool.and_eq_true,
      decide_eq_true_eq, Bool.not_eq_eq_eq_not, Bool.not_true, decide_eq_false_iff_not, not_lt]
    omega

/-- A bit of a control word is 1 when some field that is 1 stands there (30_encoding.md R94). -/
theorem crwByte_getLsbD (c : Cfg) (f : Crw) (k : Nat) :
    (crwByte c f).getLsbD k =
      (f.en && decide (k = c.bitEn.val) || f.ie && decide (k = c.bitIe.val) ||
        f.ifc && decide (k = c.bitIf.val) || f.ea && decide (k = c.bitEa.val) ||
        f.sta && decide (k = c.bitSta.val) || f.sto && decide (k = c.bitSto.val)) := by
  simp only [crwByte, BitVec.getLsbD_or, fieldBit_getLsbD]

/-- Under valid parameters no two fields share a position, read in either order. -/
theorem Cfg.Valid.positions_ne {c : Cfg} (v : c.Valid) :
    c.fieldPositions.Pairwise fun x y => x ≠ y ∧ y ≠ x :=
  v.positionsDistinct.imp fun h => ⟨h, h.symm⟩

/-- The reference profile's order of the fields, from bit 0 (92_eei_decisions.md D5). -/
theorem crwByte_pRef_bits (f : Crw) :
    (List.range 8).map (crwByte Cfg.pRef f).getLsbD =
      [f.ie, false, f.en, false, f.sto, f.sta, f.ea, f.ifc] := by
  rw [funext (crwByte_getLsbD Cfg.pRef f)]
  simp [Cfg.pRef, List.range_succ]

/-- Settles O5: every bit of a control word is read off its fields, whose positions are distinct. -/
theorem controlWordHoldsItsFields : Obligations.ControlWordHoldsItsFields := by
  intro c f v
  have distinct := v.positions_ne
  simp only [Cfg.fieldPositions, List.pairwise_cons, List.mem_cons, List.not_mem_nil, or_false,
    forall_eq_or_imp, forall_eq] at distinct
  refine ⟨?_, ?_, ?_, ?_, ?_, ?_, fun k free => ?_, crwByte_pRef_bits f⟩ <;> rw [crwByte_getLsbD]
  case refine_7 =>
    simp only [Cfg.fieldPositions, List.mem_cons, List.not_mem_nil, or_false, not_or] at free
    simp [Fin.val_inj, free]
  all_goals simp [Fin.val_inj, distinct]

/-- Settles O6: the fields are the rows of the table, and the bytes are computed from them. -/
theorem commandWordTable : Obligations.CommandWordTable :=
  ⟨rfl, rfl, rfl, rfl, rfl, rfl, rfl, rfl, by decide⟩

end Sys2Proof
end

section
/-! SUPPORT. What each reaction of the sequencer answers, with its whole frame (40_sequencer.md R122 to
R137). -/

namespace Sys2Proof.Machine

variable {i : Instr} {s s0 : State}

/-! ### Sending -/

/-- Byte `k` of the buffer handed to the controller, the cursor behind it (40_sequencer.md R122). -/
def State.sent (k : Nat) (b : Byte) (s : State) : State :=
  { s with
    cur := k + 1, dr := b, lastDr := b, cr := ⟨true, true, false, false, false⟩, iflag := false,
    armed := true, tr := s.tr ++ [.bufRd k b, .wrDR b, .wrCR (CmdWord.send.byte s.cfg)] }

/-- The transfer ended in success, STOP requested, the cursor at `k` (40_sequencer.md R122). -/
def State.completed (k : Nat) (s : State) : State :=
  { s with
    cur := k, ok := true, cr := ⟨true, false, false, false, true⟩, iflag := false, armed := false,
    tr := s.tr ++ [.wrCR (CmdWord.stop.byte s.cfg)] }

/-- The state a sending reaction works on differs in the cursor, so its answer is one of the two
above. -/
theorem SendsFrom.exec_send (from_ : SendsFrom i s s0) {b : Byte} (below : s0.cur < s.len)
    (exists_ : s.addrExists (s.bufAddr s0.cur) = true)
    (holds : s.mem.read (s.bufAddr s0.cur) = some b) : exec i s = .next (s.sent s0.cur b) := by
  rw [from_.exec_eq_tx]
  rw [from_.frame] at below exists_ holds ⊢
  rw [tx_send below exists_ holds]
  simp [State.sent, State.writeCR, State.writeDR, State.log, CmdWord.fields]

theorem SendsFrom.exec_complete (from_ : SendsFrom i s s0) (past : s.len ≤ s0.cur) :
    exec i s = .next (s.completed s0.cur) := by
  rw [from_.exec_eq_tx]
  rw [from_.frame] at past ⊢
  rw [tx_done past]
  rfl

theorem SendsFrom.of_start {ign : Byte} (hi : i ∈ [Instr.sStart ign, .sRepeatedStart ign]) :
    SendsFrom i s { s with cur := 0 } := by
  simp only [List.mem_cons, List.not_mem_nil, or_false] at hi
  rcases hi with rfl | rfl
  · exact .start ign s
  · exact .repeatedStart ign s

theorem SendsFrom.of_acknowledge {ign : Byte}
    (hi : i ∈ [Instr.sWriteAddressAck ign, .sWriteDataAck ign]) : SendsFrom i s s := by
  simp only [List.mem_cons, List.not_mem_nil, or_false] at hi
  rcases hi with rfl | rfl
  · exact .writeAddressAck ign s
  · exact .writeDataAck ign s

/-- Settles O7: the START reactions send from cursor 0. -/
theorem startReactionsSendByteZero : Obligations.StartReactionsSendByteZero :=
  fun _ _ _ below exists_ holds _ hi => (SendsFrom.of_start hi).exec_send below exists_ holds

/-- Settles O8: the acknowledge reactions send from the cursor. -/
theorem writeAcknowledgeSendsTheNextByte : Obligations.WriteAcknowledgeSendsTheNextByte :=
  fun _ _ _ below exists_ holds _ hi => (SendsFrom.of_acknowledge hi).exec_send below exists_ holds

/-- Settles O9: no byte is left at the cursor, which the START reactions have reset. -/
theorem nothingLeftToSendCompletes : Obligations.NothingLeftToSendCompletes :=
  fun _ _ => ⟨fun past _ hi => (SendsFrom.of_acknowledge hi).exec_complete past,
    fun empty _ hi => (SendsFrom.of_start hi).exec_complete (Nat.le_of_eq empty)⟩

/-! ### Receiving -/

/-- The received byte stored at the cursor (20_memory.md R61). -/
def State.stored (s : State) : State :=
  State.log (.bufWr s.cur s.dr) { s with mem := s.mem.write (s.bufAddr s.cur) s.dr }

theorem exec_readDataAck (ign : Byte) (below : s.cur < s.len) (alloc : s.allocated s.cur = true) :
    exec (.sReadDataAck ign) s = .next (rxArm { s.stored with cur := s.cur + 1 }) := by
  simp only [exec, execSReadDataAck, bufWrite_ok s.dr below alloc, State.stored]

theorem exec_readDataNack (ign : Byte) (below : s.cur < s.len) (alloc : s.allocated s.cur = true) :
    exec (.sReadDataNack ign) s = .next (s.stored.completed s.cur) := by
  simp only [exec, execSReadDataNack, bufWrite_ok s.dr below alloc]
  rfl

/-- `RXARM` is one `CR` write, of the word its test chooses (40_sequencer.md R123). -/
theorem rxArm_eq (s : State) :
    rxArm s = s.writeCR (if s.cur + 1 < s.len then .ack else .nack) := by
  split
  · exact rxArm_ack ‹_›
  · exact rxArm_nack (Nat.le_of_not_lt ‹_›)

/-- Settles O10: the reaction is `RXARM`. -/
theorem readAddressAckArmsTheAcknowledge : Obligations.ReadAddressAckArmsTheAcknowledge := by
  intro ign s
  refine ⟨fun more => ?_, fun last => ?_⟩
  · exact congrArg Host.Outcome.next (rxArm_ack (by omega))
  · exact congrArg Host.Outcome.next (rxArm_nack (by omega))

/-- Settles O11: a store, then `RXARM` with the cursor advanced. -/
theorem readDataAckStoresAndArms : Obligations.ReadDataAckStoresAndArms := by
  intro ign s below alloc
  rw [exec_readDataAck ign below alloc]
  refine ⟨fun more => ?_, fun last => ?_⟩
  · rw [rxArm_ack (show s.cur + 1 + 1 < s.len by omega)]
    simp [State.writeCR, State.stored, State.log, CmdWord.fields]
  · rw [rxArm_nack (show s.len ≤ s.cur + 1 + 1 by omega)]
    simp [State.writeCR, State.stored, State.log, CmdWord.fields]

/-- Settles O12: a store, then the end of the transfer with the cursor where it was. -/
theorem readDataNackStoresTheFinalByte : Obligations.ReadDataNackStoresTheFinalByte := by
  intro ign s below alloc
  rw [exec_readDataNack ign below alloc]
  simp [State.completed, State.stored, State.log]

/-! ### Failing -/

/-- A terminal failure is the shared handler on its own code (40_sequencer.md R133 to R137). -/
theorem exec_failure {code ign : Byte} {p : Instr × Byte} (in_ : p ∈ failures s.cfg code ign) :
    exec p.1 s = .next (tFail p.2 ign s) := by
  simp only [failures, List.mem_cons, List.not_mem_nil, or_false] at in_
  rcases in_ with rfl | rfl | rfl | rfl | rfl <;> rfl

theorem capturedStatus_eq (c : Cfg) (code ign : Byte) :
    capturedStatus c code ign = if c.stateCapture = .masked then code else code ||| ign := by
  unfold capturedStatus
  cases c.stateCapture <;> rfl

/-- Settles O16, by the shared handler. -/
theorem terminalFailuresRecordAndReset : Obligations.TerminalFailuresRecordAndReset := by
  intro code ign s p in_
  rw [exec_failure in_, ← capturedStatus_eq]
  rfl

end Sys2Proof.Machine
end

section
/-! SUPPORT. What holds of every reaction (40_sequencer.md R120, R138, R148): it prepares, then writes
`CR` once; it depends on no register of the façade; it stores nowhere but at the cursor. -/

namespace Sys2Proof.Machine

variable {i : Instr} {s s0 t : State}

/-! ### One `CR` write at the end -/

/-- What a reaction may have done before its `CR` write: writes of `DR`, `CUR`, `OK`, `STATE` and the
storage, with events in the trace none of which is a `CR` write (40_sequencer.md R138). -/
structure Prepares (s u : State) (before : List TraceEvent) : Prop where
  frame : u = { s with
    dr := u.dr, lastDr := u.lastDr, cur := u.cur, ok := u.ok, state := u.state, mem := u.mem,
    tr := s.tr ++ before }
  handed : u.lastDr = u.dr ∨ (u.lastDr = s.lastDr ∧ u.dr = s.dr)
  noWrite : ∀ b : Byte, TraceEvent.wrCR b ∉ before

theorem Prepares.nothing (s : State) : Prepares s s [] where
  frame := by simp
  handed := .inr ⟨rfl, rfl⟩
  noWrite := by simp

/-- Every reaction prepares, then writes one command word (40_sequencer.md R120). -/
theorem ReactsTo.prepares_writeCR (r : ReactsTo i s t) :
    ∃ (u : State) (before : List TraceEvent) (w : CmdWord),
      Prepares s u before ∧ t = u.writeCR w := by
  cases r with
  | @send _ _ s0 b from_ =>
    refine ⟨_, [.bufRd s0.cur b, .wrDR b], .send, ⟨?_, .inl rfl, by simp⟩, rfl⟩
    rw [from_.frame]
    simp [State.writeDR, State.log]
  | @complete _ _ s0 from_ =>
    refine ⟨_, [], .stop, ⟨?_, .inr ?_, by simp⟩, rfl⟩ <;> rw [from_.frame]
    · simp
    · exact ⟨rfl, rfl⟩
  | arm => exact ⟨s, [], _, .nothing s, rxArm_eq s⟩
  | store =>
    exact ⟨{ s.stored with cur := s.cur + 1 }, [.bufWr s.cur s.dr], _,
      ⟨rfl, .inr ⟨rfl, rfl⟩, by simp⟩, rxArm_eq _⟩
  | storeLast =>
    exact ⟨{ s.stored with ok := true }, [.bufWr s.cur s.dr], .stop,
      ⟨rfl, .inr ⟨rfl, rfl⟩, by simp⟩, rfl⟩
  | restart => exact ⟨s, [], .restart, .nothing s, rfl⟩
  | @fail _ code ign =>
    exact ⟨{ s with state := capturedStatus s.cfg code ign }, [], .reset,
      ⟨by simp, .inr ⟨rfl, rfl⟩, by simp⟩, rfl⟩

/-- A reaction that is no store leaves the storage; a store has its place in the buffer and writes
the byte there (40_sequencer.md R148). -/
theorem ReactsTo.mem_cases (r : ReactsTo i s t) :
    (isStore i = false ∧ t.mem = s.mem) ∨
      (isStore i = true ∧ s.cur < s.len ∧ t.mem = s.mem.write (s.bufAddr s.cur) s.dr) := by
  cases r with
  | send from_ => cases from_ <;> exact .inl ⟨rfl, rfl⟩
  | complete from_ => cases from_ <;> exact .inl ⟨rfl, rfl⟩
  | arm | restart => exact .inl ⟨rfl, rfl⟩
  | store _ below => exact .inr ⟨rfl, below, rfl⟩
  | storeLast _ below => exact .inr ⟨rfl, below, rfl⟩
  | fail in_ =>
    refine .inl ⟨?_, rfl⟩
    simp only [failures, List.mem_cons, List.not_mem_nil, or_false, Prod.mk.injEq] at in_
    rcases in_ with ⟨rfl, _⟩ | ⟨rfl, _⟩ | ⟨rfl, _⟩ | ⟨rfl, _⟩ | ⟨rfl, _⟩ <;> rfl

theorem ReactsTo.read_other (r : ReactsTo i s t) {a : Nat}
    (other : isStore i = true → a ≠ s.bufAddr s.cur) : t.mem.read a = s.mem.read a := by
  rcases r.mem_cases with ⟨_, e⟩ | ⟨store, _, e⟩ <;> rw [e]
  exact Memory.read_write_other s.mem s.dr (other store)

/-- Settles O19: a reaction stores at the cursor only, and no command writes the storage. -/
theorem onlyReadReactionsStoreAndOnlyAtTheCursor :
    Obligations.OnlyReadReactionsStoreAndOnlyAtTheCursor := by
  intro i s t a h other
  cases hi : isReaction i with
  | true => exact (reaction_cases hi h).read_other other
  | false =>
    obtain ⟨t', e, frame⟩ := command_frame s hi
    obtain rfl : t' = t := by simpa [e] using h
    rw [frame]

/-! ### Nothing of the façade is read -/

/-- The registers a reaction may not read: `ERRCNT` and the façade's own (40_sequencer.md R138). -/
def State.withFacade (e w b l : Nat) (op : Fop) (pc : Fpc) (k : Bool) (s : State) : State :=
  { s with errcnt := e, fop := op, fpc := pc, wcnt := w, aBuf := b, aLen := l, tOk := k }

/-- A next state that a reaction can answer is the one it answers: the converse of
`reaction_cases`. -/
theorem ReactsTo.exec_eq (r : ReactsTo i s t) : exec i s = .next t := by
  cases r with
  | send from_ below exists_ holds =>
    exact from_.exec_eq_tx.trans (tx_send below exists_ holds)
  | complete from_ past => exact from_.exec_eq_tx.trans (tx_done past)
  | arm | restart => rfl
  | store ign below alloc => exact exec_readDataAck ign below alloc
  | storeLast ign below alloc => simp only [exec, execSReadDataNack, bufWrite_ok s.dr below alloc]
  | fail in_ => exact exec_failure in_

section Facade

variable (e w b l : Nat) (op : Fop) (pc : Fpc) (k : Bool)

theorem SendsFrom.withFacade (from_ : SendsFrom i s s0) :
    SendsFrom i (s.withFacade e w b l op pc k) (s0.withFacade e w b l op pc k) := by
  cases from_ with
  | start ign => exact .start ign _
  | repeatedStart ign => exact .repeatedStart ign _
  | writeAddressAck ign => exact .writeAddressAck ign _
  | writeDataAck ign => exact .writeDataAck ign _

theorem rxArm_withFacade (s : State) :
    rxArm (s.withFacade e w b l op pc k) = (rxArm s).withFacade e w b l op pc k := by
  have same : (s.withFacade e w b l op pc k).moreToAck = s.moreToAck := rfl
  unfold rxArm
  rw [same]
  rfl

/-- A reaction does the same whatever the façade's registers hold. -/
theorem ReactsTo.withFacade (r : ReactsTo i s t) :
    ReactsTo i (s.withFacade e w b l op pc k) (t.withFacade e w b l op pc k) := by
  cases r with
  | send from_ below exists_ holds =>
    exact .send (from_.withFacade e w b l op pc k) below exists_ holds
  | complete from_ past => exact .complete (from_.withFacade e w b l op pc k) past
  | arm ign =>
    rw [← rxArm_withFacade]
    exact .arm ign _
  | store ign below alloc =>
    rw [← rxArm_withFacade]
    exact .store (s := s.withFacade e w b l op pc k) ign below alloc
  | storeLast ign below alloc =>
    exact .storeLast (s := s.withFacade e w b l op pc k) ign below alloc
  | restart ign => exact .restart ign _
  | fail in_ => exact .fail (s := s.withFacade e w b l op pc k) in_

end Facade

/-- Settles O17: the frame is what a reaction prepares and the one `CR` write after it. -/
theorem reactionsWriteNothingElse : Obligations.ReactionsWriteNothingElse := by
  intro i s t hi h
  have r := reaction_cases hi h
  refine ⟨?_, ?_, fun noStore => ?_, fun store => ?_, fun a other => r.read_other other,
    fun e w b l op pc k => (r.withFacade e w b l op pc k).exec_eq⟩
  · obtain ⟨u, before, w, p, rfl⟩ := r.prepares_writeCR
    refine ⟨w, ?_⟩
    rw [p.frame]
    rfl
  · obtain ⟨u, before, w, p, rfl⟩ := r.prepares_writeCR
    exact p.handed
  · rcases r.mem_cases with ⟨_, same⟩ | ⟨store, _⟩
    · exact same
    · simp [noStore] at store
  · rcases r.mem_cases with ⟨noStore, _⟩ | ⟨_, below, _⟩
    · simp [store] at noStore
    · exact (inBuffer_iff s _).2 ⟨Nat.le_add_right .., Nat.add_lt_add_left below _⟩

/-! ### Disabled until the next event -/

/-- A `CR` write clears `IF` or leaves `IE = 0`, whichever word it writes (30_encoding.md R95). -/
theorem seqEnabled_writeCR (w : CmdWord) (s : State) : (s.writeCR w).seqEnabled = false := by
  cases w <;> rfl

/-- A micro-step leaves the sequencer as it is, or writes `CR`, which disables it. -/
theorem MicroStep.seqEnabled_cases (m : MicroStep i s t) :
    t.seqEnabled = s.seqEnabled ∨ t.seqEnabled = false := by
  cases m
  case initI3 => exact .inr (seqEnabled_writeCR .idle s)
  case startS5 => exact .inr (seqEnabled_writeCR .start s)
  case waitT2 => exact .inr (seqEnabled_writeCR .idle s)
  all_goals exact .inl rfl

theorem StepsFrom.seqEnabled_eq (from_ : StepsFrom i s s0) : s0.seqEnabled = s.seqEnabled := by
  cases from_ <;> rfl

theorem exec_command_seqEnabled (hi : isReaction i = false) (off : s.seqEnabled = false)
    (h : exec i s = .next t) : t.seqEnabled = false := by
  obtain ⟨t', e, step⟩ := command_cases s hi
  obtain rfl : t' = t := by simpa [e] using h
  rcases step with rfl | ⟨s0, from_, m⟩
  · exact off
  · exact m.seqEnabled_cases.elim (fun same => by rw [same, from_.seqEnabled_eq, off]) id

theorem facadeTurn_seqEnabled (off : s.seqEnabled = false) (h : facadeTurn s = .next t) :
    t.seqEnabled = false := by
  rcases facadeTurn_cases h with ⟨rfl, _⟩ | ⟨i, _, hi, _, e⟩ | ⟨i, hc, _, e⟩
  · exact off
  · exact exec_command_seqEnabled hi off e
  · exact exec_command_seqEnabled (command_some hc).1 off e

/-- Only an armed controller's report can enable the sequencer (43_controller_env.md R186). -/
theorem controllerEvent_seqEnabled {status data other : Byte} (off : s.seqEnabled = false)
    (on : (controllerEvent status data other s).seqEnabled = true) : s.eventEnabled = true := by
  rcases controllerEvent_cases status data other s with ⟨e, _⟩ | ⟨en, armed, iflag, _⟩
  · simp [e, off] at on
  · exact (eventEnabled_iff s).2 ⟨en, armed, iflag⟩

/-- Nothing but a report of the controller enables a disabled sequencer (40_sequencer.md R120). -/
theorem agentTurn_seqEnabled {c : Choice} (off : s.seqEnabled = false)
    (h : agentTurn c s = .next t) (on : t.seqEnabled = true) :
    isReport c = true ∧ s.eventEnabled = true := by
  have stays : t.seqEnabled = false → isReport c = true ∧ s.eventEnabled = true := fun off' => by
    simp [off'] at on
  cases c
  case sequencer =>
    rcases sequencerTurn_cases h with ⟨rfl, _⟩ | ⟨ie, iflag, _⟩
    · exact stays off
    · simp [(seqEnabled_iff s).2 ⟨ie, iflag⟩] at off
  case facade => exact stays (facadeTurn_seqEnabled off h)
  case event =>
    cases h
    exact ⟨rfl, controllerEvent_seqEnabled off on⟩
  case refBus data other =>
    cases h
    refine ⟨rfl, ?_⟩
    rcases refBusEvent_cases data other s with ⟨st, d, r, e⟩ | ⟨r, e⟩ <;> rw [e] at on
    · exact controllerEvent_seqEnabled off on
    · exact absurd on (Bool.eq_false_iff.1 off)
  case refBusReplaced status data other =>
    cases h
    refine ⟨rfl, ?_⟩
    obtain ⟨r, e⟩ := refBusReplaced_cases status data other s
    rw [e] at on
    exact controllerEvent_seqEnabled off on
  case present =>
    cases h
    refine stays ?_
    unfold hostPresent
    split <;> exact off
  case hostStore =>
    simp only [agentTurn, hostStore] at h
    split at h <;> cases h
    exact stays off
  case hostFree =>
    simp only [agentTurn, hostFree] at h
    split at h <;> cases h
    exact stays off
  case stopEmitted => cases h; exact stays off
  case tick => cases h; exact stays off
  case reset => cases h; exact stays rfl

/-- Settles O18: the last thing a reaction does is its one `CR` write, which disables the
sequencer. -/
theorem reactionsEndWithOneCommandWord : Obligations.ReactionsEndWithOneCommandWord := by
  refine ⟨fun i s t hi h => ?_, fun c s t off h on => agentTurn_seqEnabled off h on⟩
  obtain ⟨u, before, w, p, rfl⟩ := (reaction_cases hi h).prepares_writeCR
  refine ⟨seqEnabled_writeCR w u, before, w, ?_, p.noWrite⟩
  rw [State.writeCR_tr, p.frame]

end Sys2Proof.Machine
end

section
/-! SUPPORT. Steps of the sequencer and the façade (40_sequencer.md R120, R121, 00_scope.md R10). -/

namespace Sys2Proof.Machine

variable {s : State} {c : Choice} {rest : List Choice}

/-- A step takes the first pending choice and makes its agent's move. -/
theorem step_of_pending (h : s.pending = c :: rest) :
    step s = agentTurn c { s with pending := rest } := by
  simp only [step, h]

theorem sequencerTurn_enabled (ie : s.cr.ie = true) (iflag : s.iflag = true) :
    sequencerTurn s = exec (decodeStatus s.cfg s.sr) s :=
  if_pos ((seqEnabled_iff s).2 ⟨ie, iflag⟩)

theorem sequencerTurn_disabled (off : s.seqEnabled = false) : sequencerTurn s = .next s :=
  if_neg (Bool.eq_false_iff.1 off)

/-- The façade has nothing to do with no command in progress and none presented. -/
theorem facadeTurn_nothing (op : s.fop = .none) (port : s.hc = none) : facadeTurn s = .next s := by
  simp only [facadeTurn, command_none.2 op, port]

/-- Settles O42: the decoder of status bytes is total, and taking the interrupt runs what it
answers. -/
theorem stepReactsToThePendingEvent : Obligations.StepReactsToThePendingEvent := by
  intro s rest h ie iflag
  refine ⟨⟨_, rfl, isReaction_decodeStatus s.cfg s.sr⟩, fun i hd => ?_⟩
  obtain rfl : decodeStatus s.cfg s.sr = i := Except.ok.inj hd
  exact (step_of_pending h).trans (sequencerTurn_enabled ie iflag)

/-- Settles O45: the move of the agent chosen is none, and the choice is taken. -/
theorem disabledAgentsTakeNoStep : Obligations.DisabledAgentsTakeNoStep := by
  intro s rest
  refine ⟨fun h off => ?_, fun h op port => ?_⟩
  · have disabled : s.seqEnabled = false := by
      rcases off with off | off <;> simp [State.seqEnabled, off]
    exact (step_of_pending h).trans (sequencerTurn_disabled disabled)
  · exact (step_of_pending h).trans (facadeTurn_nothing op port)

end Sys2Proof.Machine
end

section
/-! SUPPORT. Transfers (40_sequencer.md R142, R144, R145): a bus event and the reaction to it, for each
class of a transfer in protocol order, and the inductions over the bytes. -/

namespace Sys2Proof.Machine

variable {s t : State} {st data other : Byte} {d : Draw} {rest : List Choice} {k : Nat}

/-! ### One event and the reaction to it -/

/-- What `DR` holds once the controller has reported a status byte (43_controller_env.md R186). -/
def drAfter (c : Cfg) (st data other : Byte) : Byte := if isReadData c st then data else other

/-- The state in which a reported event waits for the sequencer (43_controller_env.md R186). -/
def State.reported (st dr : Byte) (s : State) : State :=
  { s with sr := st, dr := dr, iflag := true, armed := false }

theorem controllerEvent_inFlight (fl : InFlight s) (st data other : Byte) :
    controllerEvent st data other s = s.reported st (drAfter s.cfg st data other) := by
  obtain ⟨en, _, armed, iflag⟩ := fl
  exact if_pos ((eventEnabled_iff s).2 ⟨en, armed, iflag⟩)

/-- The sequencer's move after a report is the reaction the status byte decodes to (40_sequencer.md
R121). -/
theorem sequencerTurn_reported (fl : InFlight s) (st dr : Byte) :
    sequencerTurn (s.reported st dr) = exec (decodeStatus s.cfg st) (s.reported st dr) := by
  obtain ⟨_, ie, _, _⟩ := fl
  exact sequencerTurn_enabled ie rfl

theorem turns_event_next (fl : InFlight s)
    (e : exec (decodeStatus s.cfg st) (s.reported st (drAfter s.cfg st data other)) = .next t) :
    turns (.event st data other :: .sequencer :: rest) s = turns rest t := by
  simp only [turns, agentTurn, controllerEvent_inFlight fl, sequencerTurn_reported fl, e]

theorem turns_event_fault (fl : InFlight s) {f : Fault}
    (e : exec (decodeStatus s.cfg st) (s.reported st (drAfter s.cfg st data other)) = .fault f) :
    turns (.event st data other :: .sequencer :: rest) s = .fault f := by
  simp only [turns, agentTurn, controllerEvent_inFlight fl, sequencerTurn_reported fl, e]

/-! ### Write transfers -/

/-- Event number `k` of a write transfer is a sending reaction on byte `k`: START resets the cursor,
the others find it there (40_sequencer.md R125, R127, R128). -/
theorem writeCode_sendsFrom {c : Cfg} {ign : Byte} (v : c.Valid) (hi : c.IsIgnored ign)
    (at_ : k = 0 ∨ s.cur = k) :
    SendsFrom (decodeStatus c (writeCode c k ||| ign)) s { s with cur := k } := by
  unfold writeCode
  split
  · rename_i zero
    subst zero
    rw [decodeStatus_codeStart v hi]
    exact .start ign s
  · rename_i pos
    obtain rfl : s.cur = k := at_.resolve_left pos
    split
    · rw [decodeStatus_codeWriteAddressAck v hi]
      exact .writeAddressAck ign s
    · rw [decodeStatus_codeWriteDataAck v hi]
      exact .writeDataAck ign s

/-- Event number `k` of a write transfer with byte `k` to send. -/
theorem turns_send (v : s.cfg.Valid) (fl : InFlight s) (hi : s.cfg.IsIgnored d.ign)
    (at_ : k = 0 ∨ s.cur = k) {b : Byte} (below : k < s.len)
    (exists_ : s.addrExists (s.bufAddr k) = true) (holds : s.mem.read (s.bufAddr k) = some b) :
    turns (.event (writeCode s.cfg k ||| d.ign) d.data d.other :: .sequencer :: rest) s =
      turns rest (State.sent k b { s with sr := writeCode s.cfg k ||| d.ign }) :=
  turns_event_next fl
    ((writeCode_sendsFrom (s := s.reported _ _) v hi at_).exec_send below exists_ holds)

/-- Event number `k` of a write transfer with no byte left. -/
theorem turns_complete (v : s.cfg.Valid) (fl : InFlight s) (hi : s.cfg.IsIgnored d.ign)
    (at_ : k = 0 ∨ s.cur = k) (past : s.len ≤ k) :
    turns (.event (writeCode s.cfg k ||| d.ign) d.data d.other :: .sequencer :: rest) s =
      turns rest (State.completed k (s.reported (writeCode s.cfg k ||| d.ign)
        (drAfter s.cfg (writeCode s.cfg k ||| d.ign) d.data d.other))) :=
  turns_event_next fl ((writeCode_sendsFrom (s := s.reported _ _) v hi at_).exec_complete past)

theorem inFlight_sent (k : Nat) (b : Byte) (s : State) : InFlight (s.sent k b) :=
  ⟨rfl, rfl, rfl, rfl⟩

/-- The buffer holds the bytes `bs` from index `k` to its end. -/
def HoldsFrom (k : Nat) (bs : List Byte) (s : State) : Prop :=
  k + bs.length = s.len ∧
    ∀ (j : Nat) (b : Byte), bs[j]? = some b →
      s.addrExists (s.bufAddr (k + j)) = true ∧ s.mem.read (s.bufAddr (k + j)) = some b

theorem BufferHolds.holdsFrom_zero {bs : List Byte} (h : BufferHolds s bs) : HoldsFrom 0 bs s := by
  simpa only [HoldsFrom, BufferHolds, Nat.zero_add] using h

theorem HoldsFrom.tail {b : Byte} {bs : List Byte} (h : HoldsFrom k (b :: bs) s) :
    HoldsFrom (k + 1) bs s := by
  obtain ⟨len, holds⟩ := h
  rw [List.length_cons] at len
  refine ⟨by omega, fun j x hx => ?_⟩
  rw [Nat.add_right_comm, Nat.add_assoc]
  exact holds (j + 1) x hx

/-- The end of a write transfer that had the bytes `bs` to send from index `k` on. -/
def WriteEnd (k : Nat) (bs : List Byte) (s t : State) : Prop :=
  t = { s with
    cur := s.len, ok := true, cr := ⟨true, false, false, false, true⟩, iflag := false,
    armed := false, sr := t.sr, dr := t.dr, lastDr := bs.getLastD s.lastDr,
    tr := s.tr ++ sendTrace s.cfg k bs ++ [.wrCR (CmdWord.stop.byte s.cfg)] }

/-- By induction on the bytes left: each event sends the next one, the last event completes. -/
theorem turns_writeTransfer (v : s.cfg.Valid) (fl : InFlight s) (at_ : k = 0 ∨ s.cur = k)
    {bs : List Byte} (holds : HoldsFrom k bs s) {ds : List Draw} (events : ds.length = bs.length + 1)
    (ign : ∀ d ∈ ds, s.cfg.IsIgnored d.ign) :
    ∃ t, turns (eventTurns (writeCode s.cfg) k ds) s = .next t ∧ WriteEnd k bs s t := by
  induction bs generalizing s k ds with
  | nil =>
    obtain ⟨d, rfl⟩ := List.length_eq_one_iff.1 events
    have len : k = s.len := holds.1
    refine ⟨_, turns_complete v fl (ign d (by simp)) at_ (Nat.le_of_eq len.symm), ?_⟩
    simp [WriteEnd, State.completed, State.reported, sendTrace, len]
  | cons b bs ih =>
    obtain ⟨d, ds, rfl⟩ := List.exists_cons_of_length_eq_add_one events
    obtain ⟨exists_, byte⟩ := holds.2 0 b rfl
    have below : k < s.len := by
      have len := holds.1
      rw [List.length_cons] at len
      omega
    obtain ⟨t, run, fin⟩ := ih (s := State.sent k b { s with sr := writeCode s.cfg k ||| d.ign }) v
      (inFlight_sent ..) (.inr rfl) holds.tail (Nat.succ.inj events)
      fun x hx => ign x (List.mem_cons_of_mem d hx)
    refine ⟨t, (turns_send v fl (ign d (by simp)) at_ below exists_ byte).trans run, ?_⟩
    rw [WriteEnd, List.getLastD_cons]
    refine fin.trans ?_
    simp [State.sent, sendTrace]

/-- Settles O54: the whole transfer, from the START event on. -/
theorem writeTransferSendsEveryByte : Obligations.WriteTransferSendsEveryByte := by
  intro s bs ds v fl holds _ events ign
  exact turns_writeTransfer v fl (.inl rfl) holds.holdsFrom_zero events ign

/-! ### Read transfers -/

/-- Arming a reception keeps the transfer in flight (30_encoding.md R95). -/
theorem inFlight_arm (p : Prop) [Decidable p] (s : State) :
    InFlight (s.writeCR (if p then .ack else .nack)) := by
  split <;> exact ⟨rfl, rfl, rfl, rfl⟩

/-- The read address was accepted: the first reception is armed. -/
theorem turns_readAddressAck (v : s.cfg.Valid) (fl : InFlight s) (hi : s.cfg.IsIgnored d.ign) :
    turns (.event (s.cfg.codeReadAddressAck ||| d.ign) d.data d.other :: .sequencer :: rest) s =
      turns rest (State.writeCR (if s.cur + 1 < s.len then .ack else .nack)
        (s.reported (s.cfg.codeReadAddressAck ||| d.ign)
          (drAfter s.cfg (s.cfg.codeReadAddressAck ||| d.ign) d.data d.other))) := by
  refine turns_event_next fl ?_
  rw [decodeStatus_codeReadAddressAck v hi]
  exact congrArg Host.Outcome.next (rxArm_eq _)

/-- A byte was received under ACK: it is stored and the next reception is armed. -/
theorem turns_readDataAck (v : s.cfg.Valid) (fl : InFlight s) (hi : s.cfg.IsIgnored d.ign)
    (below : s.cur < s.len) (alloc : s.allocated s.cur = true) :
    turns (.event (s.cfg.codeReadDataAck ||| d.ign) d.data d.other :: .sequencer :: rest) s =
      turns rest (State.writeCR (if s.cur + 2 < s.len then .ack else .nack)
        { (s.reported (s.cfg.codeReadDataAck ||| d.ign) d.data).stored with cur := s.cur + 1 }) := by
  refine turns_event_next fl ?_
  rw [drAfter, isReadData, decodeStatus_codeReadDataAck v hi]
  exact (exec_readDataAck d.ign (s := s.reported _ d.data) below alloc).trans
    (congrArg Host.Outcome.next (rxArm_eq _))

/-- The byte received under NACK is stored and ends the transfer. -/
theorem turns_readDataNack (v : s.cfg.Valid) (fl : InFlight s) (hi : s.cfg.IsIgnored d.ign)
    (below : s.cur < s.len) (alloc : s.allocated s.cur = true) :
    turns (.event (s.cfg.codeReadDataNack ||| d.ign) d.data d.other :: .sequencer :: rest) s =
      turns rest (State.completed s.cur
        (s.reported (s.cfg.codeReadDataNack ||| d.ign) d.data).stored) := by
  refine turns_event_next fl ?_
  rw [drAfter, isReadData, decodeStatus_codeReadDataNack v hi]
  exact exec_readDataNack d.ign (s := s.reported _ d.data) below alloc

/-- A byte received under NACK that has no place in the buffer stops the machine. -/
theorem turns_readDataNack_beyond (v : s.cfg.Valid) (fl : InFlight s)
    (hi : s.cfg.IsIgnored d.ign) (beyond : s.len ≤ s.cur) :
    turns (.event (s.cfg.codeReadDataNack ||| d.ign) d.data d.other :: .sequencer :: rest) s =
      .fault (.bufferBounds s.cur s.len) := by
  refine turns_event_fault fl ?_
  rw [decodeStatus_codeReadDataNack v hi]
  exact exec_store_fault rfl (bufWrite_bounds _ beyond)

/-- The end of a read transfer that had one byte to receive for each draw, from index `k` on. -/
structure ReadEnd (k : Nat) (ds : List Draw) (s t : State) : Prop where
  frame : t = { s with
    cur := s.len - 1, ok := true, cr := ⟨true, false, false, false, true⟩, iflag := false,
    armed := false, sr := t.sr, dr := t.dr, mem := t.mem,
    tr := s.tr ++ receiveTrace s.cfg s.len k (ds.map Draw.data) }
  stored : ∀ j d, ds[j]? = some d → t.mem.read (s.bufAddr (k + j)) = some d.data
  kept : ∀ x, x < s.bufAddr k ∨ s.buf + s.len ≤ x → t.mem.read x = s.mem.read x

theorem readCode_ack {c : Cfg} {len : Nat} (pos : 1 ≤ k) (more : k + 1 < len) :
    readCode c len (k + 1) = c.codeReadDataAck := by
  simp [readCode, more, Nat.ne_of_gt pos]

theorem readCode_nack {c : Cfg} {len : Nat} (pos : 1 ≤ k) (last : len ≤ k + 1) :
    readCode c len (k + 1) = c.codeReadDataNack := by
  simp [readCode, Nat.not_lt.2 last, Nat.ne_of_gt pos]

/-- The last byte of a read transfer. -/
theorem turns_lastByte (v : s.cfg.Valid) (fl : InFlight s) (storage : s.storageValid = true)
    (pos : 1 ≤ s.cur) (last : s.cur + 1 = s.len) (hi : s.cfg.IsIgnored d.ign) :
    ∃ t, turns (eventTurns (readCode s.cfg s.len) (s.cur + 1) [d]) s = .next t ∧
      ReadEnd s.cur [d] s t := by
  have alloc := (storageValid_iff s).1 storage s.cur (by omega)
  rw [eventTurns, readCode_nack pos (by omega)]
  refine ⟨_, turns_readDataNack v fl hi (by omega) alloc, ?_, fun j x hx => ?_, fun x out => ?_⟩
  · simp [State.completed, State.stored, State.log, State.reported, receiveTrace, ← last]
  · obtain ⟨rfl, rfl⟩ : j = 0 ∧ d = x := by simpa [List.getElem?_singleton] using hx
    exact Memory.read_write_same ..
  · have other : x ≠ s.bufAddr s.cur := by
      simp only [State.bufAddr] at out ⊢
      omega
    exact Memory.read_write_other s.mem d.data other

/-- By induction on the bytes to come: each event stores one and arms the next, the last one
completes. -/
theorem turns_receive (v : s.cfg.Valid) (fl : InFlight s) (storage : s.storageValid = true)
    (pos : 1 ≤ s.cur) (ds : List Draw) (len : s.cur + (ds.length + 1) = s.len)
    (ign : ∀ x ∈ d :: ds, s.cfg.IsIgnored x.ign) :
    ∃ t, turns (eventTurns (readCode s.cfg s.len) (s.cur + 1) (d :: ds)) s = .next t ∧
      ReadEnd s.cur (d :: ds) s t := by
  induction ds generalizing s d with
  | nil => exact turns_lastByte v fl storage pos len (ign d (by simp))
  | cons d' ds ih =>
    rw [List.length_cons] at len
    have alloc := (storageValid_iff s).1 storage s.cur (by omega)
    rw [eventTurns, readCode_ack pos (by omega),
      turns_readDataAck v fl (ign d (by simp)) (by omega) alloc]
    obtain ⟨t, run, fin⟩ := ih
      (s := State.writeCR (if s.cur + 2 < s.len then .ack else .nack)
        { (s.reported (s.cfg.codeReadDataAck ||| d.ign) d.data).stored with cur := s.cur + 1 })
      (d := d') v (inFlight_arm _ _) (storageValid_write storage (s.bufAddr s.cur) d.data)
      (Nat.le_add_left ..)
      (show s.cur + 1 + (ds.length + 1) = s.len by omega)
      fun x hx => ign x (List.mem_cons_of_mem d hx)
    have written : ∀ x, x < s.bufAddr (s.cur + 1) ∨ s.buf + s.len ≤ x →
        t.mem.read x = (s.mem.write (s.bufAddr s.cur) d.data).read x := fin.kept
    refine ⟨t, run, fin.frame.trans ?_, fun j x hx => ?_, fun x out => ?_⟩
    · simp [State.stored, State.log, State.reported, State.writeCR, receiveTrace]
    · cases j with
      | zero =>
        obtain rfl : d = x := by simpa using hx
        rw [Nat.add_zero, written _ (.inl (by simp [State.bufAddr]))]
        exact Memory.read_write_same ..
      | succ j =>
        rw [Nat.add_comm j 1, ← Nat.add_assoc]
        exact fin.stored j x hx
    · simp only [State.bufAddr] at out written
      rw [written x (by omega)]
      exact Memory.read_write_other _ _ (by omega)

/-- Byte 0 was sent, and the first reception is armed. -/
def State.readArmed (a st dr : Byte) (s : State) : State :=
  State.writeCR (if 2 < s.len then .ack else .nack) ((s.sent 0 a).reported st dr)

/-- The first two events of a read transfer (40_sequencer.md R125, R129). -/
theorem turns_readStart (v : s.cfg.Valid) (fl : InFlight s) {d0 d1 : Draw}
    (hi0 : s.cfg.IsIgnored d0.ign) (hi1 : s.cfg.IsIgnored d1.ign) {a : Byte} (below : 0 < s.len)
    (exists_ : s.addrExists (s.bufAddr 0) = true) (holds : s.mem.read (s.bufAddr 0) = some a)
    (len : Nat) (ds : List Draw) :
    ∃ st dr, turns (eventTurns (readCode s.cfg len) 0 (d0 :: d1 :: ds)) s =
      turns (eventTurns (readCode s.cfg len) 2 ds) (s.readArmed a st dr) :=
  ⟨_, _, (turns_send v fl hi0 (.inl rfl) below exists_ holds).trans
    (turns_readAddressAck (s := State.sent 0 a { s with sr := writeCode s.cfg 0 ||| d0.ign }) v
      (inFlight_sent ..) hi1)⟩

/-- Settles O55: the first two events, then the bytes from index 1 on. -/
theorem readTransferStoresEveryByte : Obligations.ReadTransferStoresEveryByte := by
  intro s a ds d0 d1 v fl storage holds two len ign
  obtain ⟨d2, ds, rfl⟩ : ∃ d2 ds', ds = d2 :: ds' := List.exists_cons_of_length_pos (by omega)
  have exists_ := ((allocated_iff s 0).1 ((storageValid_iff s).1 storage 0 (by omega))).1
  obtain ⟨st, dr, start⟩ := turns_readStart v fl (ign d0 (by simp)) (ign d1 (by simp)) (by omega)
    exists_ holds s.len (d2 :: ds)
  obtain ⟨t, run, fin⟩ := turns_receive (s := s.readArmed a st dr) (d := d2) v (inFlight_arm _ _)
    storage (Nat.le_refl 1) ds ((Nat.add_comm ..).trans len)
    fun x hx => ign x (List.mem_cons_of_mem d0 (List.mem_cons_of_mem d1 hx))
  refine ⟨t, start.trans run, fin.frame.trans ?_, fun j x hx => ?_, fun x out => fin.kept x ?_⟩
  · simp [State.readArmed, State.writeCR, State.reported, State.sent]
  · rw [Nat.add_comm]
    exact fin.stored j x hx
  · exact out.imp_left Nat.lt_succ_of_le

/-! ### Lengths 0 and 1 -/

/-- Settles O56: the writes are write transfers of no byte and of one; the read arms the reception of
a byte that has no place. -/
theorem lengthCornerCases : Obligations.LengthCornerCases := by
  intro s a d0 d1 d2 v fl ign
  simp only [List.mem_cons, List.not_mem_nil, or_false, forall_eq_or_imp, forall_eq] at ign
  obtain ⟨ign0, ign1, ign2⟩ := ign
  refine ⟨fun empty => ?_, fun one exists_ holds => ⟨?_, ?_⟩⟩
  · obtain ⟨t, run, fin⟩ := turns_writeTransfer v fl (.inl rfl) (bs := []) (ds := [d0])
      ⟨empty.symm, by simp⟩ rfl (by simpa using ign0)
    refine ⟨t, run, ?_, ?_, ?_⟩ <;> rw [fin]
    simp [sendTrace]
  · have byte : HoldsFrom 0 [a] s := by
      refine ⟨one.symm, fun j b hb => ?_⟩
      obtain ⟨rfl, rfl⟩ : j = 0 ∧ a = b := by simpa [List.getElem?_singleton] using hb
      exact ⟨exists_, holds⟩
    obtain ⟨t, run, fin⟩ := turns_writeTransfer v fl (.inl rfl) byte (ds := [d0, d1]) rfl
      (by simpa using ⟨ign0, ign1⟩)
    refine ⟨t, run, ?_, ?_⟩ <;> rw [fin]
    simp [sendTrace]
  · obtain ⟨st, dr, start⟩ :=
      turns_readStart v fl ign0 ign1 (by omega) exists_ holds 1 [d2]
    have stop := turns_readDataNack_beyond (s := s.readArmed a st dr) (rest := []) v
      (inFlight_arm _ _) ign2 (Nat.le_of_eq one)
    have len : (s.readArmed a st dr).len = 1 := one
    rw [len] at stop
    exact start.trans stop

/-! ### Arbitration loss -/

/-- Arbitration was lost and a START requested again (40_sequencer.md R132). -/
def State.restarted (st dr : Byte) (s : State) : State := State.writeCR .restart (s.reported st dr)

theorem inFlight_restarted (st dr : Byte) (s : State) : InFlight (s.restarted st dr) :=
  ⟨rfl, rfl, rfl, rfl⟩

theorem turns_arbitrationLost (v : s.cfg.Valid) (fl : InFlight s) (hi : s.cfg.IsIgnored d.ign) :
    turns (.event (s.cfg.codeArbitrationLost ||| d.ign) d.data d.other :: .sequencer :: rest) s =
      turns rest (s.restarted (s.cfg.codeArbitrationLost ||| d.ign)
        (drAfter s.cfg (s.cfg.codeArbitrationLost ||| d.ign) d.data d.other)) := by
  refine turns_event_next fl ?_
  rw [decodeStatus_codeArbitrationLost v hi]
  rfl

/-- Settles O57: the loss leaves the transfer in flight, and the START event that follows sends
byte 0. -/
theorem arbitrationLossRestartsFromByteZero : Obligations.ArbitrationLossRestartsFromByteZero := by
  intro s b d d' v fl below exists_ holds hi hi'
  have lost := turns_arbitrationLost (rest := []) v fl hi
  generalize drAfter s.cfg _ _ _ = dr at lost
  have start := turns_send (s := s.restarted (s.cfg.codeArbitrationLost ||| d.ign) dr) (rest := []) v
    (inFlight_restarted ..) hi' (.inl rfl) below exists_ holds
  exact ⟨_, _, lost, inFlight_restarted .., rfl, rfl, rfl, rfl, rfl, rfl, rfl, rfl, start, rfl⟩

end Sys2Proof.Machine
end

section
/-! SUPPORT. A micro-step a host command may take at its label is the one it takes: the converse of
`command_cases` (41_facade.md R150). -/

namespace Sys2Proof.Machine

variable {i : Instr} {s t : State} {op : Fop} {l r : Fpc} {b n : Nat}

/-- The micro-step of a command at the label `FPC` holds; a reaction has none. -/
def microOf : Instr → State → State
  | .hInit => initMicro
  | .hBusy => busyMicro
  | .hConfigure b n => configureMicro b n
  | .hStart => startMicro
  | .hQueryResult => queryResultMicro
  | .hLastStatus => lastStatusMicro
  | .hErrorCount => errorCountMicro
  | .sStart _ | .sRepeatedStart _ | .sWriteAddressAck _ | .sWriteDataAck _ | .sReadAddressAck _
  | .sReadDataAck _ | .sReadDataNack _ | .sArbitrationLost _ | .sWriteAddressNack _
  | .sReadAddressNack _ | .sWriteDataNack _ | .sBusError _ | .sUnrecognized _ _ => id

/-- The state in which a command takes its first micro-step. -/
abbrev State.begun (i : Instr) (s : State) : State :=
  beginCommand (commandOf i) (firstLabel i) (callOperands i) s

theorem exec_first (hi : isReaction i = false) (none_ : s.fop = .none) :
    exec i s = .next (microOf i (s.begun i)) := by
  cases i
  case hInit | hBusy | hConfigure | hStart | hQueryResult | hLastStatus | hErrorCount =>
    exact runCommand_first none_
  all_goals cases hi

theorem exec_going (hi : isReaction i = false) (same : s.fop = commandOf i) :
    exec i s = .next (microOf i s) := by
  cases i
  case hInit | hBusy | hConfigure | hStart | hQueryResult | hLastStatus | hErrorCount =>
    exact runCommand_next same nofun
  all_goals cases hi

/-- The bounded wait before the label `r` (42_recovery.md R170, R174). -/
def waitMicro (r : Fpc) (s : State) : State :=
  match s.fpc with
  | .W0 => waitW0 s
  | .W1 => waitW1 r s
  | .W2 => waitW2 s
  | .T1 => waitT1 s
  | .T2 => waitT2 r s
  | _ => s

/-- The three waiting commands share the micro-steps of the wait. -/
theorem microOf_wait (w : (op, i, r) ∈ waiters b n) (at_ : s.fpc.isWait = true) :
    microOf i s = waitMicro r s := by
  simp only [waiters, List.mem_cons, List.not_mem_nil, or_false, Prod.mk.injEq] at w
  rcases w with ⟨_, rfl, rfl⟩ | ⟨_, rfl, rfl⟩ | ⟨_, rfl, rfl⟩ <;>
    cases l : s.fpc <;>
    simp only [l, Fpc.isWait, Bool.false_eq_true, microOf, configureMicro, startMicro,
      queryResultMicro, waitMicro] at at_ ⊢

/-- A command that calls the bounded wait (40_sequencer.md R147 c). -/
def Waits (i : Instr) : Prop := ∃ op r b n, (op, i, r) ∈ waiters b n

theorem waiters_command (w : (op, i, r) ∈ waiters b n) :
    isReaction i = false ∧ op = commandOf i := by
  simp only [waiters, List.mem_cons, List.not_mem_nil, or_false, Prod.mk.injEq] at w
  rcases w with ⟨rfl, rfl, _⟩ | ⟨rfl, rfl, _⟩ | ⟨rfl, rfl, _⟩ <;> exact ⟨rfl, rfl⟩

/-- At a label of the wait only a waiting command has a micro-step; elsewhere the label names the
command. -/
theorem MicroStep.microOf_eq (m : MicroStep i s t) (at_ : s.fpc.isWait = false ∨ Waits i) :
    microOf i s = t := by
  have waits {l : Fpc} (h : s.fpc = l) (hl : l.isWait = true) :
      ∃ r, microOf i s = waitMicro r s := by
    obtain ⟨_, r, _, _, w⟩ := at_.resolve_left (by simp [h, hl])
    exact ⟨r, microOf_wait w (by rw [h, hl])⟩
  cases m with
  | initI1 l | initI2 l | initI3 l => simp only [microOf, initMicro, l]
  | busyB1 l => simp only [microOf, busyMicro, l]
  | lastStatusL1 l => simp only [microOf, lastStatusMicro, l]
  | errorCountE1 l => simp only [microOf, errorCountMicro, l]
  | configureNull b n l null => simp only [microOf, configureMicro, l, if_pos null]
  | configureC1 b n l given => simp only [microOf, configureMicro, l, if_neg given]
  | configureC3 b n l | configureC4 b n l => simp only [microOf, configureMicro, l]
  | startNull l null => simp only [microOf, startMicro, l, if_pos null]
  | startS1 l given => simp only [microOf, startMicro, l, if_neg given]
  | startS3 l | startS4 l | startS5 l => simp only [microOf, startMicro, l]
  | queryQ2 l | queryQ3 l => simp only [microOf, queryResultMicro, l]
  | waitW0 l | waitT1 l =>
    obtain ⟨r, e⟩ := waits l rfl
    simp only [e, waitMicro, l]
  | waitIdle w l idle =>
    rw [microOf_wait w (by rw [l]; rfl)]
    simp [waitMicro, l, waitW1, State.busy, idle]
  | waitOut l busy used =>
    obtain ⟨r, e⟩ := waits l rfl
    simp [e, waitMicro, l, waitW1, State.busy, busy, used]
  | waitDelay l busy left =>
    obtain ⟨r, e⟩ := waits l rfl
    simp [e, waitMicro, l, waitW1, State.busy, busy, left]
  | waitW2 l done =>
    obtain ⟨r, e⟩ := waits l rfl
    simp [e, waitMicro, l, Sys2Proof.Machine.waitW2, done]
  | waitT2 w l =>
    rw [microOf_wait w (by rw [l]; rfl)]
    simp only [waitMicro, l]

/-- Of the commands only `queryResult` begins at the wait, and it is one that waits. -/
theorem firstLabel_isWait (i : Instr) : (firstLabel i).isWait = false ∨ Waits i := by
  cases i
  case hQueryResult => exact .inr ⟨.queryResult, .Q2, 0, 0, by simp [waiters]⟩
  all_goals exact .inl rfl

theorem MicroStep.exec_first (m : MicroStep i (s.begun i) t) (hi : isReaction i = false)
    (none_ : s.fop = .none) : exec i s = .next t := by
  rw [Sys2Proof.Machine.exec_first hi none_, m.microOf_eq (firstLabel_isWait i)]

/-- A command in progress takes its micro-step at a label outside the wait. -/
theorem MicroStep.exec_outsideWait (m : MicroStep i s t) (hi : isReaction i = false)
    (same : s.fop = commandOf i) (at_ : s.fpc = l) (outside : l.isWait = false) :
    exec i s = .next t := by
  rw [exec_going hi same, m.microOf_eq (.inl (by rw [at_, outside]))]

/-- A command in progress that waits takes every micro-step of the wait. -/
theorem MicroStep.exec_waiting (m : MicroStep i s t) (w : (op, i, r) ∈ waiters b n)
    (same : s.fop = op) : exec i s = .next t := by
  obtain ⟨hi, op_eq⟩ := waiters_command w
  rw [exec_going hi (same.trans op_eq), m.microOf_eq (.inr ⟨op, r, b, n, w⟩)]

end Sys2Proof.Machine
end

section
/-! SUPPORT. The façade's commands (41_facade.md R151 to R159): each micro-step outside the wait as an
equation of `exec` with its whole frame, and the commands that run alone composed from them. -/

namespace Sys2Proof.Machine

variable {i : Instr} {s t u : State} {op : Fop} {label r : Fpc} {b l n k : Nat} {v : Option HrVal}

/-! ### Returning -/

theorem finish_eq (same : s.fop = op) (v : Option HrVal) :
    finish v s = { s with fop := .none, hr := v, tr := s.tr ++ [.ret op v] } := by
  rw [finish, same]

/-- A micro-step that returns presents the result of the command in progress, over the registers `u`
it leaves. -/
theorem exec_returns (m : MicroStep i s (finish v u)) (hi : isReaction i = false)
    (same : s.fop = commandOf i) (after : u.fop = commandOf i) (at_ : s.fpc = label)
    (outside : label.isWait = false) :
    exec i s = .next { u with fop := .none, hr := v, tr := u.tr ++ [.ret (commandOf i) v] } := by
  rw [m.exec_outsideWait hi same at_ outside, finish_eq after]

/-- A command whose first micro-step returns moves, beside its label, the port and the result, the
trace only. -/
theorem exec_returnsAtOnce (none_ : s.fop = .none) (hi : isReaction i = false)
    (m : MicroStep i (s.begun i) (finish v (s.begun i))) : exec i s = .next { s with
      fpc := firstLabel i, hc := none, hr := v,
      tr := s.tr ++ [.call (commandOf i) (callOperands i), .ret (commandOf i) v] } := by
  rw [m.exec_first hi none_, finish_eq rfl]
  simp [beginCommand, ← none_]

/-! ### `init` -/

theorem exec_init_I1 (none_ : s.fop = .none) : exec .hInit s = .next { s with
    fop := .init, hc := none, br := s.cfg.brValue, fpc := .I2,
    tr := s.tr ++ [.call .init none, .wrBR s.cfg.brValue] } := by
  rw [MicroStep.exec_first (.initI1 rfl) rfl none_]
  simp [State.writeBR, beginCommand, commandOf, callOperands]

theorem exec_init_I2 (same : s.fop = .init) (at_ : s.fpc = .I2) : exec .hInit s = .next { s with
    port := !s.cfg.externalPullups, fpc := .I3,
    tr := s.tr ++ [.wrPORT (!s.cfg.externalPullups)] } :=
  MicroStep.exec_outsideWait (.initI2 at_) rfl same at_ rfl

theorem exec_init_I3 (same : s.fop = .init) (at_ : s.fpc = .I3) : exec .hInit s = .next { s with
    cr := ⟨true, false, false, false, false⟩, armed := false, fop := .none, hr := none,
    tr := s.tr ++ [.wrCR (CmdWord.idle.byte s.cfg), .ret .init none] } := by
  rw [exec_returns (.initI3 at_) rfl same same at_ rfl]
  simp [State.writeCR, CmdWord.fields, commandOf]

/-- Settles O22: the three micro-steps above. -/
theorem initMicroSteps : Obligations.InitMicroSteps :=
  fun _ => ⟨exec_init_I1, exec_init_I2, exec_init_I3⟩

/-! ### Commands that return at once -/

/-- Settles O23: the number decodes to `busy`, whose one micro-step returns the flag. -/
theorem busyReturnsTheInterruptEnable : Obligations.BusyReturnsTheInterruptEnable :=
  fun _ _ _ => ⟨rfl, fun none_ => exec_returnsAtOnce none_ rfl (.busyB1 rfl)⟩

/-- Settles O27: each read has one micro-step, which returns. -/
theorem diagnosticReadsReturnTheirRegister : Obligations.DiagnosticReadsReturnTheirRegister :=
  fun _ none_ => ⟨exec_returnsAtOnce none_ rfl (.lastStatusL1 rfl),
    exec_returnsAtOnce none_ rfl (.errorCountE1 rfl)⟩

theorem exec_configure_null (none_ : s.fop = .none) (null : b = s.cfg.null) :
    exec (.hConfigure b l) s = .next { s with
      fpc := .C1, hc := none, hr := none,
      tr := s.tr ++ [.call .configure (some (b, l)), .ret .configure none] } :=
  exec_returnsAtOnce none_ rfl (.configureNull b l rfl null)

theorem exec_start_null (none_ : s.fop = .none) (null : s.buf = s.cfg.null) :
    exec .hStart s = .next { s with
      fpc := .S1, hc := none, hr := none,
      tr := s.tr ++ [.call .start none, .ret .start none] } :=
  exec_returnsAtOnce none_ rfl (.startNull rfl null)

/-- Settles O33: neither misuse looks at the busy flag. -/
theorem misuseIsSilent : Obligations.MisuseIsSilent :=
  fun _ _ none_ => ⟨exec_configure_null none_ rfl, exec_start_null none_⟩

/-! ### `configure` -/

theorem exec_configure_C1 (none_ : s.fop = .none) (given : b ≠ s.cfg.null) :
    exec (.hConfigure b l) s = .next { s with
      fop := .configure, fpc := .W0, hc := none, aBuf := b, aLen := l,
      tr := s.tr ++ [.call .configure (some (b, l))] } :=
  MicroStep.exec_first (.configureC1 b l rfl given) rfl none_

theorem exec_configure_C3 (same : s.fop = .configure) (at_ : s.fpc = .C3) :
    exec (.hConfigure b l) s = .next { s with buf := s.aBuf, fpc := .C4 } :=
  MicroStep.exec_outsideWait (.configureC3 b l at_) rfl same at_ rfl

theorem exec_configure_C4 (same : s.fop = .configure) (at_ : s.fpc = .C4) :
    exec (.hConfigure b l) s = .next { s with
      len := s.aLen, fop := .none, hr := none, tr := s.tr ++ [.ret .configure none] } :=
  exec_returns (.configureC4 b l at_) rfl same same at_ rfl

/-- Settles O24: C1 in its two cases, then the two micro-steps after the wait. -/
theorem configureMicroSteps : Obligations.ConfigureMicroSteps :=
  fun _ _ _ => ⟨exec_configure_null, exec_configure_C1, exec_configure_C3, exec_configure_C4⟩

/-! ### `start` -/

theorem exec_start_S1 (none_ : s.fop = .none) (given : s.buf ≠ s.cfg.null) :
    exec .hStart s = .next { s with
      fop := .start, fpc := .W0, hc := none, tr := s.tr ++ [.call .start none] } :=
  MicroStep.exec_first (.startS1 rfl given) rfl none_

theorem exec_start_S3 (same : s.fop = .start) (at_ : s.fpc = .S3) :
    exec .hStart s = .next { s with ok := false, fpc := .S4 } :=
  MicroStep.exec_outsideWait (.startS3 at_) rfl same at_ rfl

theorem exec_start_S4 (same : s.fop = .start) (at_ : s.fpc = .S4) :
    exec .hStart s = .next { s with state := s.cfg.codeNoState, fpc := .S5 } :=
  MicroStep.exec_outsideWait (.startS4 at_) rfl same at_ rfl

theorem exec_start_S5 (same : s.fop = .start) (at_ : s.fpc = .S5) :
    exec .hStart s = .next { s with
      cr := ⟨true, true, false, true, false⟩, iflag := false, armed := true, fop := .none,
      hr := none, tr := s.tr ++ [.wrCR (CmdWord.start.byte s.cfg), .ret .start none] } := by
  rw [exec_returns (.startS5 at_) rfl same same at_ rfl]
  simp [State.writeCR, CmdWord.fields, commandOf]

/-- Settles O25: S1 in its two cases, then the three micro-steps after the wait. -/
theorem startMicroSteps : Obligations.StartMicroSteps :=
  fun _ => ⟨exec_start_null, exec_start_S1, exec_start_S3, exec_start_S4, exec_start_S5⟩

/-! ### `queryResult` -/

/-- `queryResult` begins with the wait's W0 (41_facade.md R155). -/
theorem exec_queryResult_W0 (none_ : s.fop = .none) : exec .hQueryResult s = .next { s with
    fop := .queryResult, fpc := .W1, hc := none, wcnt := 0,
    tr := s.tr ++ [.call .queryResult none] } :=
  MicroStep.exec_first (.waitW0 rfl) rfl none_

theorem exec_queryResult_Q2 (same : s.fop = .queryResult) (at_ : s.fpc = .Q2) :
    exec .hQueryResult s = .next { s with tOk := s.ok, fpc := .Q3 } :=
  MicroStep.exec_outsideWait (.queryQ2 at_) rfl same at_ rfl

theorem exec_queryResult_Q3 (same : s.fop = .queryResult) (at_ : s.fpc = .Q3) :
    exec .hQueryResult s = .next { s with
      errcnt := if s.tOk = true then s.errcnt else incErrcnt s.cfg s.errcnt,
      fop := .none, hr := some (.flag s.tOk),
      tr := s.tr ++ [.ret .queryResult (some (.flag s.tOk))] } :=
  exec_returns (.queryQ3 at_) rfl same same at_ rfl

/-- The increment in both modes (40_sequencer.md R146 f). -/
theorem incErrcnt_eq (c : Cfg) (n : Nat) :
    incErrcnt c n =
      if n < 2 ^ c.errcntWidth - 1 then n + 1 else if c.errcntMode = .wrap then 0 else n := by
  unfold incErrcnt
  cases c.errcntMode <;> rfl

/-- Settles O26: the first micro-step and the two after the wait, the count spelled out by mode. -/
theorem queryResultMicroSteps : Obligations.QueryResultMicroSteps := by
  intro s
  refine ⟨exec_queryResult_W0, exec_queryResult_Q2, fun same at_ => ?_⟩
  rw [exec_queryResult_Q3 same at_, incErrcnt_eq]

/-! ### Commands that run alone, from no command in progress to none -/

theorem execTimes_next (e : exec i s = .next t) : execTimes i (k + 1) s = execTimes i k t := by
  simp only [execTimes, e]

/-- The poll of an idle block ends the wait (42_recovery.md R170). -/
theorem execTimes_idlePoll (w : (op, i, r) ∈ waiters b n) (same : s.fop = op)
    (at_ : s.fpc = .W1) (idle : s.cr.ie = false) :
    execTimes i (k + 1) s = execTimes i k { s with fpc := r } :=
  execTimes_next (MicroStep.exec_waiting (.waitIdle w at_ idle) w same)

/-- While the block is idle the wait is two micro-steps (42_recovery.md R170). -/
theorem execTimes_idleWait (w : (op, i, r) ∈ waiters b n) (same : s.fop = op)
    (at_ : s.fpc = .W0) (idle : s.cr.ie = false) :
    execTimes i (k + 2) s = execTimes i k { s with wcnt := 0, fpc := r } := by
  have begins : exec i s = .next (waitW0 s) := MicroStep.exec_waiting (.waitW0 at_) w same
  rw [execTimes_next begins, execTimes_idlePoll (s := waitW0 s) w same rfl idle]
  rfl

/-- Settles O29, micro-step after micro-step. -/
theorem initCompletes : Obligations.InitCompletes := by
  intro s none_
  rw [execTimes_next (exec_init_I1 none_), execTimes_next (exec_init_I2 rfl rfl),
    execTimes_next (exec_init_I3 rfl rfl)]
  simp [execTimes, ← none_]

/-- Settles O30: C1, the wait, C3, C4. -/
theorem configureCompletesWhenIdle : Obligations.ConfigureCompletesWhenIdle := by
  intro b l s none_ idle given
  have w : (Fop.configure, Instr.hConfigure b l, Fpc.C3) ∈ waiters b l := by simp [waiters]
  rw [execTimes_next (exec_configure_C1 none_ given), execTimes_idleWait w rfl rfl,
    execTimes_next (exec_configure_C3 rfl rfl), execTimes_next (exec_configure_C4 rfl rfl)]
  · simp [execTimes, ← none_]
  · exact idle

/-- Settles O31: S1, the wait, S3, S4, S5. -/
theorem startCompletesWhenIdle : Obligations.StartCompletesWhenIdle := by
  intro s none_ idle given
  have w : (Fop.start, Instr.hStart, Fpc.S3) ∈ waiters 0 0 := by simp [waiters]
  rw [execTimes_next (exec_start_S1 none_ given), execTimes_idleWait w rfl rfl,
    execTimes_next (exec_start_S3 rfl rfl), execTimes_next (exec_start_S4 rfl rfl),
    execTimes_next (exec_start_S5 rfl rfl)]
  · simp [execTimes, ← none_]
  · exact idle

/-- Settles O32: the wait, whose W0 begins the command, Q2, Q3. -/
theorem queryResultCompletesWhenIdle : Obligations.QueryResultCompletesWhenIdle := by
  intro s none_ idle
  have w : (Fop.queryResult, Instr.hQueryResult, Fpc.Q2) ∈ waiters 0 0 := by simp [waiters]
  rw [execTimes_next (exec_queryResult_W0 none_), execTimes_idlePoll w rfl rfl,
    execTimes_next (exec_queryResult_Q2 rfl rfl), execTimes_next (exec_queryResult_Q3 rfl rfl)]
  · simp [execTimes, ← none_]
  · exact idle

/-- Settles O34: the first call ends idle and between commands, so the second one completes too and
installs what is there. -/
theorem configureTwiceIsIdempotent : Obligations.ConfigureTwiceIsIdempotent :=
  fun b l s none_ idle given =>
    ⟨_, _, configureCompletesWhenIdle b l s none_ idle given,
      configureCompletesWhenIdle b l _ none_ idle given, rfl, rfl, rfl, rfl⟩

/-! ### The façade's move -/

theorem launching_iff (s : State) : launching s = true ↔ s.fop = .start ∧ s.fpc = .S5 := by
  simp [launching]

/-- With a command in progress the façade's move is its next micro-step, save for a launch without
storage (log 12). -/
theorem facadeTurn_command (c : s.command = some i) :
    facadeTurn s =
      if launching s && !s.storageValid then .fault .storageInvalid else exec i s := by
  simp only [facadeTurn, c]

/-- Settles O44: the launch check refuses one case and lets the others go on. -/
theorem stepContinuesTheCommandInProgress : Obligations.StepContinuesTheCommandInProgress := by
  intro s rest i h c
  have move : step s = if launching s && !s.storageValid then .fault .storageInvalid
      else exec i { s with pending := rest } :=
    (step_of_pending h).trans (facadeTurn_command (s := { s with pending := rest }) c)
  rw [move]
  refine ⟨fun goesOn => if_neg ?_, fun start at_ invalid => if_pos ?_⟩
  · rw [Bool.and_eq_true, launching_iff]
    rintro ⟨launch, invalid⟩
    rcases goesOn with noLaunch | valid
    · exact noLaunch launch
    · simp [valid] at invalid
  · rw [(launching_iff s).2 ⟨start, at_⟩, invalid]
    rfl

end Sys2Proof.Machine
end

section
/-! SUPPORT. The recovery engine (42_recovery.md R170 to R175): the micro-steps of the bounded wait in
its three callers, and that it returns only with the block idle, which nothing but `start` ends. -/

namespace Sys2Proof.Machine

variable {i : Instr} {s s0 t : State} {op : Fop} {r : Fpc} {b n : Nat}

/-! ### The bounded wait -/

/-- A waiting command at a label of the wait takes the wait's micro-step. -/
theorem exec_wait (w : (op, i, r) ∈ waiters b n) (same : s.fop = op)
    (at_ : s.fpc.isWait = true) : exec i s = .next (waitMicro r s) := by
  obtain ⟨hi, op_eq⟩ := waiters_command w
  rw [exec_going hi (same.trans op_eq), microOf_wait w at_]

/-- A delay that has not ended is no step (42_recovery.md R172). -/
theorem waitMicro_delaying (at_ : s.fpc = .W2) (running : s.elapsed = false) :
    waitMicro r s = s := by
  simp [waitMicro, at_, waitW2, running]

/-- Settles O28: the micro-steps of the wait, each at its label. -/
theorem boundedWaitMicroSteps : Obligations.BoundedWaitMicroSteps := by
  rintro b l s ⟨op, i, r⟩ w same
  have steps {t : State} (m : MicroStep i s t) : exec i s = .next t := m.exec_waiting w same
  refine ⟨fun at_ => steps (.waitW0 at_), fun at_ idle => steps (.waitIdle w at_ idle),
    fun at_ busy left => steps (.waitDelay at_ busy left),
    fun at_ busy used => steps (.waitOut at_ busy used),
    fun at_ done => steps (.waitW2 at_ done), fun at_ running => ?_,
    fun at_ => steps (.waitT1 at_), fun at_ => steps (.waitT2 w at_)⟩
  rw [exec_wait w same (by rw [at_]; rfl), waitMicro_delaying at_ running]

/-- A micro-step of the wait stays at its labels, or leaves it with the block idle: by an idle poll,
or by the `CR` write of T2. -/
theorem waitMicro_leaves (at_ : s.fpc.isWait = true) :
    (waitMicro r s).fpc.isWait = true ∨
      ((waitMicro r s).fpc = r ∧ (waitMicro r s).cr.ie = false) := by
  unfold waitMicro
  split
  case h_1 => exact .inl rfl
  case h_2 =>
    unfold waitW1
    split
    · rename_i idle
      exact .inr ⟨rfl, by simpa [State.busy] using idle⟩
    · split <;> exact .inl rfl
  case h_3 =>
    unfold waitW2
    split
    · exact .inl rfl
    · exact .inl at_
  case h_4 => exact .inl rfl
  case h_5 => exact .inr ⟨rfl, rfl⟩
  case h_6 => exact .inl at_

/-- Settles O38: the command's micro-step is the wait's. -/
theorem boundedWaitReturnsIdle : Obligations.BoundedWaitReturnsIdle := by
  rintro b l s t ⟨op, i, r⟩ w same at_ h
  obtain rfl : waitMicro r s = t := by simpa [exec_wait w same at_] using h
  exact waitMicro_leaves at_

/-! ### What makes the block busy -/

/-- The micro-steps that write `CR` disable the interrupt, save S5 of `start` (30_encoding.md R95). -/
theorem MicroStep.cr_cases (m : MicroStep i s t) :
    t.cr = s.cr ∨ t.cr.ie = false ∨ (i = .hStart ∧ s.fpc = .S5) := by
  cases m
  case initI3 => exact .inr (.inl rfl)
  case waitT2 => exact .inr (.inl rfl)
  case startS5 l => exact .inr (.inr ⟨rfl, l⟩)
  all_goals exact .inl rfl

/-- A command makes an idle block busy only in progress: none begins at S5. -/
theorem exec_command_raises_ie (hi : isReaction i = false) (idle : s.cr.ie = false)
    (h : exec i s = .next t) (raised : t.cr.ie = true) :
    i = .hStart ∧ s.fop = .start ∧ s.fpc = .S5 := by
  obtain ⟨t', e, step⟩ := command_cases s hi
  obtain rfl : t' = t := by simpa [e] using h
  rcases step with rfl | ⟨s0, from_, m⟩
  · simp [idle] at raised
  · have idle0 : s0.cr.ie = false := by cases from_ <;> exact idle
    obtain ⟨rfl, at_⟩ : i = .hStart ∧ s0.fpc = .S5 := by
      rcases m.cr_cases with same | off | launch
      · simp [same, idle0] at raised
      · simp [off] at raised
      · exact launch
    cases from_ with
    | first => cases at_
    | going _ same => exact ⟨rfl, same, at_⟩

theorem facadeTurn_raises_ie (idle : s.cr.ie = false) (h : facadeTurn s = .next t)
    (raised : t.cr.ie = true) : s.fop = .start ∧ s.fpc = .S5 := by
  rcases facadeTurn_cases h with ⟨rfl, _⟩ | ⟨i, _, hi, _, e⟩ | ⟨i, c, _, e⟩
  · simp [idle] at raised
  · exact (exec_command_raises_ie hi idle e raised).2
  · exact (exec_command_raises_ie (command_some c).1 idle e raised).2

/-- The moves of the environment raise no interrupt enable: reset clears it, the others leave it. -/
theorem environment_ie {c : Choice} (notSequencer : c ≠ .sequencer) (notFacade : c ≠ .facade)
    (h : agentTurn c s = .next t) : t.cr.ie = s.cr.ie ∨ t.cr.ie = false := by
  cases c
  case sequencer => exact absurd rfl notSequencer
  case facade => exact absurd rfl notFacade
  case event => cases h; exact .inl (by rw [controllerEvent_cr])
  case refBus data other =>
    cases h
    rcases refBusEvent_cases data other s with ⟨st, d, r, e⟩ | ⟨r, e⟩ <;> rw [e]
    · exact .inl (by rw [controllerEvent_cr])
    · exact .inl rfl
  case refBusReplaced status data other =>
    cases h
    obtain ⟨r, e⟩ := refBusReplaced_cases status data other s
    rw [e]
    exact .inl (by rw [controllerEvent_cr])
  case stopEmitted => cases h; exact .inl rfl
  case tick => cases h; exact .inl rfl
  case present =>
    cases h
    unfold hostPresent
    split <;> exact .inl rfl
  case hostStore =>
    simp only [agentTurn, hostStore] at h
    split at h <;> cases h
    exact .inl rfl
  case hostFree =>
    simp only [agentTurn, hostFree] at h
    split at h <;> cases h
    exact .inl rfl
  case reset => cases h; exact .inr rfl

/-- Settles O37: the sequencer has no step while idle, and the environment raises nothing. -/
theorem onlyStartRaisesBusy : Obligations.OnlyStartRaisesBusy := by
  intro c s t idle h raised
  by_cases facade : c = .facade
  · subst facade
    exact ⟨rfl, facadeTurn_raises_ie idle h raised⟩
  by_cases sequencer : c = .sequencer
  · subst sequencer
    rcases sequencerTurn_cases h with ⟨rfl, _⟩ | ⟨busy, _⟩
    · simp [idle] at raised
    · simp [idle] at busy
  · rcases environment_ie sequencer facade h with same | off
    · simp [same, idle] at raised
    · simp [off] at raised

end Sys2Proof.Machine
end

section
/-! SUPPORT. The timeout of `queryResult` (42_recovery.md R170, R174, R176): the façade's moves within
the command, the induction over the rounds of the wait, and the moves after the last poll. -/

namespace Sys2Proof.Machine

variable {s t : State} {b l n : Nat} {rest : List Choice}

/-! ### The façade's moves -/

/-- The port word of `queryResult` begins it: no operand of the word is read (30_encoding.md R97). -/
theorem facadeTurn_presentedQuery (none_ : s.fop = .none) (port : s.hc = some ⟨4, b, l⟩) :
    facadeTurn s = exec .hQueryResult s := by
  simp only [facadeTurn, command_none.2 none_, port]
  rfl

/-- In progress, `queryResult` goes on: it launches nothing. -/
theorem facadeTurn_query (same : s.fop = .queryResult) : facadeTurn s = exec .hQueryResult s := by
  have c : s.command = some .hQueryResult := by simp [State.command, same]
  rw [facadeTurn_command c]
  simp [launching, same]

theorem turns_facade_query (same : s.fop = .queryResult) (e : exec .hQueryResult s = .next t) :
    turns (.facade :: rest) s = turns rest t := by
  simp only [turns, agentTurn, facadeTurn_query same, e]

/-- A micro-step of the wait within `queryResult`. -/
theorem turns_facade_waiting (same : s.fop = .queryResult) (m : MicroStep .hQueryResult s t) :
    turns (.facade :: rest) s = turns rest t :=
  turns_facade_query same
    (m.exec_waiting (op := .queryResult) (r := .Q2) (b := 0) (n := 0) (by simp [waiters]) same)

/-! ### The rounds of the wait -/

/-- The wait after `n` more delays, back at its poll. -/
def State.waited (n : Nat) (e : Bool) (s : State) : State :=
  { s with wcnt := s.wcnt + n, fpc := .W1, elapsed := e }

/-- One round: a busy poll within the budget, and a delay that ends. -/
theorem turns_waitRound (same : s.fop = .queryResult) (at_ : s.fpc = .W1) (busy : s.cr.ie = true)
    (left : s.wcnt < s.cfg.waitBudget) :
    turns (waitRound ++ rest) s = turns rest (s.waited 1 true) :=
  calc turns (waitRound ++ rest) s
    _ = turns (.tick :: .facade :: rest) { s with fpc := .W2, elapsed := false } :=
      turns_facade_waiting same (.waitDelay at_ busy left)
    _ = turns (.facade :: rest) { s with fpc := .W2, elapsed := true } := rfl
    _ = turns rest (s.waited 1 true) :=
      turns_facade_waiting (s := { s with fpc := .W2, elapsed := true }) same (.waitW2 rfl rfl)

/-- As many rounds as the budget still allows count one delay each. -/
theorem turns_waitRounds (same : s.fop = .queryResult) (at_ : s.fpc = .W1) (busy : s.cr.ie = true)
    (left : s.wcnt + n ≤ s.cfg.waitBudget) :
    ∃ e, turns ((List.replicate n waitRound).flatten ++ rest) s = turns rest (s.waited n e) := by
  induction n generalizing s with
  | zero => exact ⟨s.elapsed, by simp [State.waited, ← at_]⟩
  | succ n ih =>
    obtain ⟨e, run⟩ := ih (s := s.waited 1 true) same rfl busy
      (show s.wcnt + 1 + n ≤ s.cfg.waitBudget by omega)
    refine ⟨e, ?_⟩
    rw [List.replicate_succ, List.flatten_cons, List.append_assoc,
      turns_waitRound same at_ busy (by omega), run]
    simp [State.waited, Nat.add_assoc, Nat.add_comm 1 n]

/-! ### The timeout -/

/-- `queryResult` returned after T2: the controller is idle, and the outcome decides the count
(42_recovery.md R174, 41_facade.md R155). -/
def State.queryForced (s : State) : State :=
  { s with
    cr := ⟨true, false, false, false, false⟩, armed := false, tOk := s.ok,
    errcnt := if s.ok = true then s.errcnt else incErrcnt s.cfg s.errcnt, fop := .none, fpc := .Q3,
    hr := some (.flag s.ok),
    tr := s.tr ++ [.wrCR (CmdWord.idle.byte s.cfg), .ret .queryResult (some (.flag s.ok))] }

/-- T2, Q2, Q3. -/
theorem turns_queryForced (same : s.fop = .queryResult) (at_ : s.fpc = .T2) :
    turns [.facade, .facade, .facade] s = .next s.queryForced := by
  have w : (Fop.queryResult, Instr.hQueryResult, Fpc.Q2) ∈ waiters 0 0 := by simp [waiters]
  calc turns [.facade, .facade, .facade] s
    _ = turns [.facade, .facade] (waitT2 .Q2 s) := turns_facade_waiting same (.waitT2 w at_)
    _ = turns [.facade] { waitT2 .Q2 s with tOk := s.ok, fpc := .Q3 } :=
      turns_facade_query same (exec_queryResult_Q2 same rfl)
    _ = .next s.queryForced :=
      Eq.trans (turns_facade_query same (exec_queryResult_Q3 same rfl))
        (by simp [turns, State.queryForced, waitT2, State.writeCR, CmdWord.fields])

/-- The busy poll with the budget used up, T1, then as above with the timeout recorded. -/
theorem turns_timeout (same : s.fop = .queryResult) (at_ : s.fpc = .W1) (busy : s.cr.ie = true)
    (used : s.cfg.waitBudget ≤ s.wcnt) :
    turns [.facade, .facade, .facade, .facade, .facade] s =
      .next ({ s with state := s.cfg.codeTimeout, fpc := .T2 } : State).queryForced :=
  calc turns [.facade, .facade, .facade, .facade, .facade] s
    _ = turns [.facade, .facade, .facade, .facade] { s with fpc := .T1 } :=
      turns_facade_waiting same (.waitOut at_ busy used)
    _ = turns [.facade, .facade, .facade] { s with state := s.cfg.codeTimeout, fpc := .T2 } :=
      turns_facade_waiting same (.waitT1 rfl)
    _ = _ := turns_queryForced same rfl

/-- `queryResult` begun, with W0 taken (41_facade.md R155). -/
def State.queryBegun (s : State) : State :=
  { s with
    fop := .queryResult, fpc := .W1, hc := none, wcnt := 0, tr := s.tr ++ [.call .queryResult none] }

theorem turns_facade_presentedQuery (none_ : s.fop = .none) (port : s.hc = some ⟨4, b, l⟩) :
    turns (.facade :: rest) s = turns rest s.queryBegun := by
  simp only [turns, agentTurn, facadeTurn_presentedQuery none_ port, exec_queryResult_W0 none_,
    State.queryBegun]

/-- Settles O58: W0 begins the command, the rounds use up the budget, and the rest times out. -/
theorem queryResultTimesOut : Obligations.QueryResultTimesOut := by
  intro s b l none_ port busy failed
  have budget : s.queryBegun.wcnt + s.cfg.waitBudget = s.cfg.waitBudget := Nat.zero_add _
  obtain ⟨e, rounds⟩ :=
    turns_waitRounds (s := s.queryBegun) rfl rfl busy (Nat.le_of_eq budget)
  have timeout := turns_timeout (s := s.queryBegun.waited s.cfg.waitBudget e) rfl rfl busy
    (Nat.le_of_eq budget.symm)
  refine ⟨_, ((turns_facade_presentedQuery none_ port).trans rounds).trans timeout, ?_⟩
  simp [State.queryForced, State.waited, State.queryBegun, failed, ← none_]

end Sys2Proof.Machine
end

section
/-! SUPPORT. The controller and the host as the block sees them (43_controller_env.md R186 to R189,
R194): what a report writes, what of a status byte is free, and how a command is presented and
taken. -/

namespace Sys2Proof.Machine

variable {i : Instr} {s s0 t : State} {w : HostWord}

/-! ### The controller's event step -/

theorem controllerEvent_enabled (on : s.eventEnabled = true) (st data other : Byte) :
    controllerEvent st data other s = s.reported st (drAfter s.cfg st data other) := if_pos on

theorem controllerEvent_disabled (off : ¬ s.eventEnabled = true) (st data other : Byte) :
    controllerEvent st data other s = s := if_neg off

/-- Under valid parameters the read-data classes are two codes, whatever the ignored bits
(43_controller_env.md R186). -/
theorem isReadData_iff {c : Cfg} (v : c.Valid) (b : Byte) :
    isReadData c b = true ↔
      statusCode c b = c.codeReadDataAck ∨ statusCode c b = c.codeReadDataNack := by
  refine ⟨fun read => ?_, fun code => ?_⟩
  · rcases decodeStatus_cases c b with
      h | h | h | h | h | ⟨ack, _⟩ | ⟨nack, _⟩ | h | h | h | h | h | h
    case inr.inr.inr.inr.inr.inl => exact .inl ack
    case inr.inr.inr.inr.inr.inr.inl => exact .inr nack
    all_goals simp [isReadData, h.2] at read
  · have ignored := statusIgnored_isIgnored c b
    rw [← statusCode_or_statusIgnored c b]
    rcases code with ack | nack
    · rw [ack, isReadData, decodeStatus_codeReadDataAck v ignored]
    · rw [nack, isReadData, decodeStatus_codeReadDataNack v ignored]

/-- Settles O39: the class decides what `DR` takes. -/
theorem controllerEventStep : Obligations.ControllerEventStep := by
  intro s st data other v
  refine ⟨fun en armed iflag => ⟨fun read => ?_, fun noAck noNack => ?_⟩, fun disabled => ?_⟩
  · rw [agentTurn, controllerEvent_enabled ((eventEnabled_iff s).2 ⟨en, armed, iflag⟩), drAfter,
      if_pos ((isReadData_iff v st).2 read)]
    rfl
  · rw [agentTurn, controllerEvent_enabled ((eventEnabled_iff s).2 ⟨en, armed, iflag⟩), drAfter,
      if_neg ((isReadData_iff v st).not.2 (not_or.2 ⟨noAck, noNack⟩))]
    rfl
  · rw [agentTurn, controllerEvent_disabled ((eventEnabled_iff s).not.2 disabled)]

/-- Settles O40: `IF` is cleared by `IFC` and kept without it, the other fields are stored. -/
theorem commandWordsCommandTheController : Obligations.CommandWordsCommandTheController := by
  intro w s
  have cleared : (if w.fields.ifc then false else s.iflag) = (s.iflag && !w.fields.ifc) := by
    cases w.fields.ifc <;> simp
  rw [State.writeCR, cleared]

/-- Settles O52: an event that is not pending is possible, for the controller of a transfer in flight
is enabled, and armed only with no event pending. -/
theorem aTransferInFlightHasANextEvent : Obligations.ATransferInFlightHasANextEvent := by
  intro s reached
  have busy := reached.inv.busy
  refine ⟨fun ie => ?_, fun idle => by simp [State.seqEnabled, idle]⟩
  rcases busy.pendingEvent ie with armed | iflag
  · exact .inr ((eventEnabled_iff s).2 ⟨busy.enabled ie, armed, busy.oneEvent armed⟩)
  · exact .inl iflag

/-! ### The masked-off bits of the status byte -/

/-- With `STATE_CAPTURE = masked` no reaction depends on the bits the mask clears: only the failure
handler is handed them, and it drops them (40_sequencer.md R124, 43_controller_env.md R189). -/
theorem exec_decodeStatus_masked (masked : s.cfg.stateCapture = .masked) {b b' : Byte}
    (same : statusCode s.cfg b = statusCode s.cfg b') :
    exec (decodeStatus s.cfg b) s = exec (decodeStatus s.cfg b') s := by
  have fail (code : Byte) :
      tFail code (statusIgnored s.cfg b) s = tFail code (statusIgnored s.cfg b') s := by
    simp only [tFail, capturedStatus_eq, masked, if_true]
  simp only [decodeStatus, same, apply_ite (exec · s)]
  simp only [exec, execSStart, execSRepeatedStart, execSWriteAddressAck, execSWriteDataAck,
    execSReadAddressAck, execSReadDataAck, execSReadDataNack, execSArbitrationLost,
    execSWriteAddressNack, execSReadAddressNack, execSWriteDataNack, execSBusError,
    execSUnrecognized, fail]

/-- The state with another byte in `SR`. -/
def State.withSr (b : Byte) (s : State) : State := { s with sr := b }

theorem SendsFrom.withSr (b : Byte) (from_ : SendsFrom i s s0) :
    SendsFrom i (s.withSr b) (s0.withSr b) := by
  cases from_ with
  | start ign => exact .start ign _
  | repeatedStart ign => exact .repeatedStart ign _
  | writeAddressAck ign => exact .writeAddressAck ign _
  | writeDataAck ign => exact .writeDataAck ign _

theorem rxArm_withSr (b : Byte) (s : State) : rxArm (s.withSr b) = (rxArm s).withSr b := by
  have same : (s.withSr b).moreToAck = s.moreToAck := rfl
  unfold rxArm
  rw [same]
  rfl

/-- Once `SR` has selected the reaction, the reaction does not read it (40_sequencer.md R121). -/
theorem ReactsTo.withSr (b : Byte) (r : ReactsTo i s t) :
    ReactsTo i (s.withSr b) (t.withSr b) := by
  cases r with
  | send from_ below exists_ holds => exact .send (from_.withSr b) below exists_ holds
  | complete from_ past => exact .complete (from_.withSr b) past
  | arm ign =>
    rw [← rxArm_withSr]
    exact .arm ign _
  | store ign below alloc =>
    rw [← rxArm_withSr]
    exact .store (s := s.withSr b) ign below alloc
  | storeLast ign below alloc => exact .storeLast (s := s.withSr b) ign below alloc
  | restart ign => exact .restart ign _
  | fail in_ => exact .fail (s := s.withSr b) in_

/-- Masked, the sequencer's move is the same for two status bytes with one code. -/
theorem sequencerTurn_withSr (masked : s.cfg.stateCapture = .masked) {b : Byte}
    (same : statusCode s.cfg s.sr = statusCode s.cfg b) (h : sequencerTurn s = .next t) :
    sequencerTurn (s.withSr b) = .next (t.withSr b) := by
  rcases sequencerTurn_cases h with ⟨rfl, off⟩ | ⟨ie, iflag, e⟩
  · exact sequencerTurn_disabled off
  · have r := reaction_cases (isReaction_decodeStatus s.cfg s.sr) e
    calc sequencerTurn (s.withSr b)
      _ = exec (decodeStatus s.cfg b) (s.withSr b) := sequencerTurn_enabled ie iflag
      _ = exec (decodeStatus s.cfg s.sr) (s.withSr b) :=
        (exec_decodeStatus_masked (s := s.withSr b) masked same).symm
      _ = .next (t.withSr b) := (r.withSr b).exec_eq

/-- The status byte of a terminal failure is its code with the ignored bits (30_encoding.md R92). -/
theorem encode_failure {c : Cfg} {code ign : Byte} {p : Instr × Byte}
    (in_ : p ∈ failures c code ign) : encode c p.1 = .srb (p.2 ||| ign) := by
  simp only [failures, List.mem_cons, List.not_mem_nil, or_false] at in_
  rcases in_ with rfl | rfl | rfl | rfl | rfl <;> rfl

/-- Settles O21: masked, no reaction depends on the bits; raw, the byte recorded is the failure's
encoding, which is the byte it was decoded from. -/
theorem maskedOffBitsOfTheStatus : Obligations.MaskedOffBitsOfTheStatus := by
  refine ⟨fun s t b b' masked same h => ?_, fun s code ign raw ie iflag p in_ hd => ?_,
    fun s b data other on => ⟨_, rfl, ?_⟩⟩
  · exact sequencerTurn_withSr (s := { s with sr := b }) masked same h
  · have decoded : decodeStatus s.cfg s.sr = p.1 := Except.ok.inj hd
    have whole : p.2 ||| ign = s.sr := by
      have joined := encode_decodeStatus s.cfg s.sr
      rw [decoded, encode_failure in_] at joined
      exact Raw.srb.inj joined
    have move : sequencerTurn s = .next (tFail p.2 ign s) := by
      rw [sequencerTurn_enabled ie iflag, decoded, exec_failure in_]
    refine ⟨_, move, ?_⟩
    simp [tFail, capturedStatus_eq, raw, whole]
  · rw [controllerEvent_enabled on]
    rfl

/-! ### The host's commands -/

theorem hostPresent_free (none_ : s.fop = .none) (port : s.hc = none) :
    hostPresent w s = { s with hc := some w } := if_pos ⟨none_, port⟩

theorem hostPresent_occupied (occupied : s.fop ≠ .none ∨ s.hc ≠ none) : hostPresent w s = s :=
  if_neg (not_and_or.2 occupied)

/-- With a word presented and no command in progress, the façade's move is the operation the word
decodes to, or the refusal of it (41_facade.md R150). -/
theorem facadeTurn_presented (none_ : s.fop = .none) (port : s.hc = some w) :
    (∀ i, decodeHost s.cfg w = .ok i → facadeTurn s = exec i s) ∧
      ∀ e, decodeHost s.cfg w = .error e → facadeTurn s = .refused (refusalOf e) := by
  constructor <;> intro _ hd <;> simp only [facadeTurn, command_none.2 none_, port, decode, hd]

/-- HC_OP 7 names no operation (30_encoding.md R100). -/
theorem decodeHost_reserved (c : Cfg) (h : w.op = 7) :
    decodeHost c w = .error .reservedHostCommand := by
  simp [decodeHost, h]

/-- Settles O43: the host's move fills a free port, the façade's takes the word from it. -/
theorem stepTakesThePresentedCommand : Obligations.StepTakesThePresentedCommand := by
  intro s rest w
  refine ⟨fun h => ⟨fun none_ port => ?_, fun occupied => ?_⟩, fun h none_ port => ?_⟩
  · rw [step_of_pending h, agentTurn, hostPresent_free (s := { s with pending := rest }) none_ port]
  · rw [step_of_pending h, agentTurn, hostPresent_occupied (s := { s with pending := rest }) occupied]
  · obtain ⟨runs, refuses⟩ := facadeTurn_presented (s := { s with pending := rest }) none_ port
    exact ⟨fun i hd => (step_of_pending h).trans (runs i hd),
      fun seven => (step_of_pending h).trans (refuses _ (decodeHost_reserved s.cfg seven))⟩

end Sys2Proof.Machine
end

section
/-! SUPPORT. Why a move stops under the invariant (60_exceptions.md R225, 20_memory.md R61, R62): each
agent's faults and refusals, and that of a transfer in flight the storage is there, so that the
sequencer's only fault is an index beyond the buffer. -/

namespace Sys2Proof.Machine

variable {s u : State} {f : Fault} {r : Refusal}

/-! ### The sequencer -/

/-- The two read-data classes are those whose reactions store the byte (40_sequencer.md R148). -/
theorem isReadData_eq_isStore (c : Cfg) (b : Byte) : isReadData c b = isStore (decodeStatus c b) := by
  unfold isReadData
  cases decodeStatus c b <;> rfl

/-- A reaction runs only in a transfer in flight, whose buffer is allocated: what is left to stop it
is a byte received with no place in the buffer. -/
theorem sequencerTurn_fault (busy : BusyInv s) (h : sequencerTurn s = .fault f) :
    s.len ≤ s.cur ∧ f = .bufferBounds s.cur s.len ∧ isReadData s.cfg s.sr = true := by
  by_cases on : s.seqEnabled = true
  · obtain ⟨ie, iflag⟩ := (seqEnabled_iff s).1 on
    rw [sequencerTurn_enabled ie iflag] at h
    rcases reaction_fault (isReaction_decodeStatus s.cfg s.sr) h with
      ⟨store, beyond, hf⟩ | ⟨k, below, free, _⟩
    · exact ⟨beyond, hf, (isReadData_eq_isStore s.cfg s.sr).trans store⟩
    · have stored := (storageValid_iff s).1 (busy.storage ie) k below
      simp [stored] at free
  · rw [sequencerTurn_disabled (Bool.eq_false_iff.2 on)] at h
    cases h

theorem sequencerTurn_not_refused : sequencerTurn s ≠ .refused r := by
  unfold sequencerTurn
  split
  · exact exec_not_refused _ s r
  · simp

/-! ### The host's storage -/

/-- The check that `hostStore` and `hostFree` share: it raises one fault, where the host may not touch
the address (43_controller_env.md R195). -/
theorem hostForbidden_of_fault {a : Nat}
    (h : (if hostForbidden a s then .fault .storageInvalid else .next u : Result) = .fault f) :
    hostForbidden a s = true ∧ f = .storageInvalid := by
  split at h <;> cases h
  exact ⟨‹_›, rfl⟩

theorem hostCheck_not_refused {a : Nat} :
    (if hostForbidden a s then .fault .storageInvalid else .next u : Result) ≠ .refused r := by
  split <;> simp

/-! ### Every agent -/

/-- Settles O53: an agent other than the sequencer, the façade and the host at its storage never
stops, and a refusal is that of a word the decoder rejects. -/
theorem faultsAreOnlyThoseListed : Obligations.FaultsAreOnlyThoseListed := by
  intro c s inv
  refine ⟨fun f h => ?_, fun r h => ?_⟩
  · cases c with
    | sequencer =>
      obtain ⟨beyond, hf, read⟩ := sequencerTurn_fault inv.busy h
      exact .inl ⟨rfl, beyond, hf, read⟩
    | facade => exact .inr (.inl ⟨rfl, facadeTurn_fault h⟩)
    | hostStore a v => exact .inr (.inr ⟨a, v, .inl rfl, hostForbidden_of_fault h⟩)
    | hostFree a => exact .inr (.inr ⟨a, 0, .inr rfl, hostForbidden_of_fault h⟩)
    | event | refBus | refBusReplaced | stopEmitted | tick | present | reset => cases h
  · cases c with
    | sequencer => exact absurd h sequencerTurn_not_refused
    | facade =>
      obtain ⟨none_, w, e, port, rejected, rfl⟩ := facadeTurn_refused h
      refine ⟨rfl, none_, w, port, ?_⟩
      rcases decodeHost_error rejected with ⟨seven, rfl⟩ | ⟨two, wide, rfl⟩
      · exact .inl ⟨seven, rfl⟩
      · exact .inr ⟨two, wide, rfl⟩
    | hostStore => exact absurd h hostCheck_not_refused
    | hostFree => exact absurd h hostCheck_not_refused
    | event | refBus | refBusReplaced | stopEmitted | tick | present | reset => cases h

end Sys2Proof.Machine
end

section
/-! SUPPORT. The timeout race of `queryResult` (70_reset_and_hazards.md R250): what the interrupt's side
can do to a command that is timing out, the reaction on either side of T1, and how the command returns. -/

namespace Sys2Proof.Machine

variable {s t u : State} {i : Instr} {c : Choice} {ign : Byte} {cs ds rest : List Choice}

/-! ### Runs in two parts -/

theorem turns_cons_next (h : turns (c :: rest) s = .next u) :
    ∃ t, agentTurn c s = .next t ∧ turns rest t = .next u := by
  simp only [turns] at h
  split at h
  case h_1 t moved => exact ⟨t, moved, h⟩
  all_goals cases h

theorem turns_append_next (h : turns (cs ++ ds) s = .next u) :
    ∃ m, turns cs s = .next m ∧ turns ds m = .next u := by
  induction cs generalizing s with
  | nil => exact ⟨s, rfl, h⟩
  | cons c cs ih =>
    obtain ⟨t, moved, run⟩ := turns_cons_next h
    obtain ⟨m, first, second⟩ := ih run
    exact ⟨m, by simpa only [turns, moved] using first, second⟩

/-! ### The interrupt's side -/

/-- What moves of the interrupt's side do to a command in progress: they write no parameter, neither its
place nor the count (40_sequencer.md R138, 43_controller_env.md R186), and of a transfer that is still
in flight they have recorded no outcome. -/
structure InterruptSide (s t : State) : Prop where
  cfg       : t.cfg = s.cfg
  fop       : t.fop = s.fop
  fpc       : t.fpc = s.fpc
  errcnt    : t.errcnt = s.errcnt
  undecided : t.cr.ie = true → s.cr.ie = true ∧ t.ok = s.ok ∧ t.state = s.state

theorem InterruptSide.refl (s : State) : InterruptSide s s :=
  ⟨rfl, rfl, rfl, rfl, fun busy => ⟨busy, rfl, rfl⟩⟩

theorem InterruptSide.trans (h : InterruptSide s t) (h' : InterruptSide t u) : InterruptSide s u where
  cfg := h'.cfg.trans h.cfg
  fop := h'.fop.trans h.fop
  fpc := h'.fpc.trans h.fpc
  errcnt := h'.errcnt.trans h.errcnt
  undecided := fun busy => by
    obtain ⟨between, ok', state'⟩ := h'.undecided busy
    obtain ⟨before, ok, state⟩ := h.undecided between
    exact ⟨before, ok'.trans ok, state'.trans state⟩

/-- Of the reactions only the terminal failures write `STATE`, and they end the transfer
(40_sequencer.md R124). -/
theorem ReactsTo.state_cases (r : ReactsTo i s t) : t.state = s.state ∨ t.cr.ie = false := by
  cases r with
  | send from_ | complete from_ => rw [from_.frame]; exact .inl rfl
  | arm | store | storeLast | restart => exact .inl rfl
  | fail => exact .inr rfl

/-- A reaction runs while `CR.IE = 1`; one that records an outcome clears it. -/
theorem ReactsTo.interruptSide (r : ReactsTo i s t) (ie : s.cr.ie = true) : InterruptSide s t where
  cfg := by rw [r.frame]
  fop := by rw [r.frame]
  fpc := by rw [r.frame]
  errcnt := by rw [r.frame]
  undecided := fun busy =>
    ⟨ie, r.ok_cases.resolve_right fun h => by simp [busy] at h,
      r.state_cases.resolve_right (by simp [busy])⟩

/-- The registers the controller's own moves can write: `SR`, `DR`, `IF`, `ARMED`, the stored STO bit
and RefBus (43_controller_env.md R186, R190, R192). -/
abbrev ControllerFrame (s t : State) : Prop :=
  t = { s with
    sr := t.sr, dr := t.dr, iflag := t.iflag, armed := t.armed, refBus := t.refBus,
    cr := { s.cr with sto := t.cr.sto } }

theorem controllerEvent_frame (st data other : Byte) (s : State) :
    ControllerFrame s (controllerEvent st data other s) := by
  rcases controllerEvent_cases st data other s with ⟨e, _⟩ | ⟨_, _, _, d, e⟩ <;> rw [e]

theorem ControllerFrame.withRefBus (h : ControllerFrame s t) (r : RefBus) :
    ControllerFrame s { t with refBus := r } := by
  rw [h]

theorem agentTurn_controllerFrame (side : isInterruptSide c = true) (notSequencer : c ≠ .sequencer)
    (moved : agentTurn c s = .next t) : ControllerFrame s t := by
  cases c with
  | sequencer => exact absurd rfl notSequencer
  | event st data other => cases moved; exact controllerEvent_frame st data other s
  | refBus data other =>
    cases moved
    rcases refBusEvent_cases data other s with ⟨st, d, r, e⟩ | ⟨r, e⟩ <;> rw [e]
    exact (controllerEvent_frame st d other s).withRefBus r
  | refBusReplaced st data other =>
    cases moved
    obtain ⟨r, e⟩ := refBusReplaced_cases st data other s
    rw [e]
    exact (controllerEvent_frame st data other s).withRefBus r
  | stopEmitted => cases moved; rfl
  | facade | tick | present | hostStore | hostFree | reset => cases side

theorem ControllerFrame.interruptSide (h : ControllerFrame s t) : InterruptSide s t := by
  rw [h]
  exact ⟨rfl, rfl, rfl, rfl, fun busy => ⟨busy, rfl, rfl⟩⟩

theorem agentTurn_interruptSide (side : isInterruptSide c = true)
    (moved : agentTurn c s = .next t) : InterruptSide s t := by
  by_cases sequencer : c = .sequencer
  · subst sequencer
    rcases sequencerTurn_cases moved with ⟨rfl, _⟩ | ⟨ie, _, e⟩
    · exact .refl t
    · exact (reaction_cases (isReaction_decodeStatus s.cfg s.sr) e).interruptSide ie
  · exact (agentTurn_controllerFrame side sequencer moved).interruptSide

theorem turns_interruptSide (side : ∀ c ∈ cs, isInterruptSide c = true)
    (run : turns cs s = .next u) : InterruptSide s u := by
  induction cs generalizing s with
  | nil => cases run; exact .refl _
  | cons c cs ih =>
    obtain ⟨t, moved, run⟩ := turns_cons_next run
    obtain ⟨first, others⟩ := List.forall_mem_cons.1 side
    exact (agentTurn_interruptSide first moved).trans (ih others run)

/-! ### The reaction on either side of T1 -/

theorem turns_facade_T1 (same : s.fop = .queryResult) (at_ : s.fpc = .T1) :
    turns (.facade :: rest) s = turns rest (waitT1 s) :=
  turns_facade_waiting same (.waitT1 at_)

theorem turns_sequencer (ie : s.cr.ie = true) (iflag : s.iflag = true)
    (dec : decode s.cfg (.srb s.sr) = .ok i) (r : ReactsTo i s t) :
    turns (.sequencer :: rest) s = turns rest t := by
  obtain rfl : decodeStatus s.cfg s.sr = i := Except.ok.inj dec
  simp only [turns, agentTurn, sequencerTurn_enabled ie iflag, r.exec_eq]

/-- The reaction comes first: the timeout is recorded over what it left. -/
theorem turns_reactionBeforeT1 (same : s.fop = .queryResult) (at_ : s.fpc = .T1)
    (ie : s.cr.ie = true) (iflag : s.iflag = true) (dec : decode s.cfg (.srb s.sr) = .ok i)
    (r : ReactsTo i s t) :
    turns [.sequencer, .facade, .facade, .facade, .facade] s = .next (waitT1 t).queryForced := by
  have kept := r.interruptSide ie
  have fop := kept.fop.trans same
  rw [turns_sequencer ie iflag dec r, turns_facade_T1 fop (kept.fpc.trans at_)]
  exact turns_queryForced fop rfl

/-- T1 comes first: the reaction runs on the timeout recorded. -/
theorem turns_reactionAfterT1 (same : s.fop = .queryResult) (at_ : s.fpc = .T1)
    (ie : s.cr.ie = true) (iflag : s.iflag = true) (dec : decode s.cfg (.srb s.sr) = .ok i)
    (r : ReactsTo i (waitT1 s) t) :
    turns [.facade, .sequencer, .facade, .facade, .facade] s = .next t.queryForced := by
  have kept := r.interruptSide ie
  rw [turns_facade_T1 same at_, turns_sequencer (s := waitT1 s) ie iflag dec r]
  exact turns_queryForced (kept.fop.trans same) kept.fpc

/-! ### The outcomes -/

/-- A reaction that can complete does: `OK` is set and `STATE` stays (40_sequencer.md R122, R131,
R142). -/
theorem Completes.reactsTo (h : Completes ign s i) :
    ∃ t, ReactsTo i s t ∧ t.ok = true ∧ t.state = s.state := by
  rcases h with ⟨past, acknowledge⟩ | ⟨empty, start⟩ | ⟨below, alloc, rfl⟩
  · exact ⟨_, .complete (.of_acknowledge acknowledge) past, rfl, rfl⟩
  · exact ⟨_, .complete (.of_start start) (Nat.le_of_eq empty), rfl, rfl⟩
  · exact ⟨_, .storeLast ign below alloc, rfl, rfl⟩

/-- A terminal failure reacts with its own code (40_sequencer.md R133 to R137). -/
theorem ReactsTo.of_failure {code : Byte} {p : Instr × Byte} (in_ : p ∈ failures s.cfg code ign) :
    ReactsTo p.1 s (tFail p.2 ign s) := by
  refine .fail ?_
  simp only [failures, List.mem_cons, List.not_mem_nil, or_false] at in_
  rcases in_ with rfl | rfl | rfl | rfl | rfl <;> simp [failures]

/-- `queryResult` returned `k` after T2: controller idle, no command in progress, `st` in `STATE` and
`n` counted. -/
structure ForcedReturn (k : Bool) (st : Byte) (n : Nat) (t : State) : Prop where
  ok     : t.ok = k
  state  : t.state = st
  cr     : t.cr = ⟨true, false, false, false, false⟩
  hr     : t.hr = some (.flag k)
  errcnt : t.errcnt = n
  fop    : t.fop = .none

theorem queryForced_succeeded (ok : s.ok = true) :
    ForcedReturn true s.state s.errcnt s.queryForced := by
  constructor <;> simp [State.queryForced, ok]

theorem queryForced_failed (failed : s.ok = false) :
    ForcedReturn false s.state (incErrcnt s.cfg s.errcnt) s.queryForced := by
  constructor <;> simp [State.queryForced, failed]

/-- The completion recorded, in either order: the command succeeds with the timeout in `STATE`. -/
theorem completion_returnsTrue (same : s.fop = .queryResult) (at_ : s.fpc = .T1)
    (ie : s.cr.ie = true) (iflag : s.iflag = true) (dec : decode s.cfg (.srb s.sr) = .ok i)
    (completes : Completes ign s i)
    (order : cs ∈ [[Choice.sequencer, .facade, .facade, .facade, .facade],
      [Choice.facade, .sequencer, .facade, .facade, .facade]]) :
    ∃ t, turns cs s = .next t ∧ ForcedReturn true s.cfg.codeTimeout s.errcnt t := by
  simp only [List.mem_cons, List.not_mem_nil, or_false] at order
  rcases order with rfl | rfl
  · obtain ⟨t, r, ok, _⟩ := completes.reactsTo
    have returned := queryForced_succeeded (s := waitT1 t) ok
    exact ⟨_, turns_reactionBeforeT1 same at_ ie iflag dec r,
      by simpa only [waitT1, (r.interruptSide ie).cfg, (r.interruptSide ie).errcnt] using returned⟩
  · have completes : Completes ign (waitT1 s) i := completes
    obtain ⟨t, r, ok, state⟩ := completes.reactsTo
    have returned := queryForced_succeeded ok
    exact ⟨_, turns_reactionAfterT1 same at_ ie iflag dec r,
      by simpa only [waitT1, state, (r.interruptSide ie).errcnt] using returned⟩

/-- No outcome recorded on either side of T1: T2 forces the failure, with the timeout in `STATE`. -/
theorem undecided_returnsFalse (same : s.fop = .queryResult) (at_ : s.fpc = .T1)
    (failed : s.ok = false) (side : ∀ c ∈ cs ++ ds, isInterruptSide c = true)
    (run : turns (cs ++ .facade :: ds) s = .next u) (busy : u.cr.ie = true) :
    ∃ t, turns [.facade, .facade, .facade] u = .next t ∧
      ForcedReturn false s.cfg.codeTimeout (incErrcnt s.cfg s.errcnt) t := by
  obtain ⟨sideBefore, sideAfter⟩ := List.forall_mem_append.1 side
  obtain ⟨m, run, run'⟩ := turns_append_next run
  have before := turns_interruptSide sideBefore run
  have fop := before.fop.trans same
  rw [turns_facade_T1 fop (before.fpc.trans at_)] at run'
  have after := turns_interruptSide sideAfter run'
  obtain ⟨between, okAfter, state⟩ := after.undecided busy
  obtain ⟨_, okBefore, _⟩ := before.undecided between
  have returned := queryForced_failed (okAfter.trans (okBefore.trans failed))
  exact ⟨_, turns_queryForced (after.fop.trans fop) after.fpc,
    by simpa only [waitT1, state, after.cfg, after.errcnt, before.cfg, before.errcnt] using returned⟩

/-- Settles O59: a completion is recorded in either order, and moves that leave the transfer in flight
record nothing. -/
theorem completionRacesTheTimeout : Obligations.CompletionRacesTheTimeout := by
  intro s same at_ ie
  refine ⟨fun ign i iflag dec completes order mem => ?_,
    fun before between u failed side run busy => ?_⟩
  · obtain ⟨t, run, h⟩ := completion_returnsTrue same at_ ie iflag dec completes mem
    exact ⟨t, run, h.ok, h.state, h.cr, h.hr, h.errcnt, h.fop⟩
  · obtain ⟨t, run, h⟩ := undecided_returnsFalse same at_ failed side run busy
    exact ⟨t, run, h.ok, h.state, h.cr, h.hr, h.errcnt, h.fop⟩

/-- Settles O60: the failure records its status over the timeout's, or is recorded over. -/
theorem failureRacesTheTimeout : Obligations.FailureRacesTheTimeout := by
  intro s code ign same at_ ie iflag failed p in_ dec
  refine ⟨?_, ?_⟩
  · have returned := queryForced_failed (s := waitT1 (tFail p.2 ign s)) failed
    exact ⟨_, turns_reactionBeforeT1 same at_ ie iflag dec (.of_failure in_),
      returned.state, returned.ok, returned.cr, returned.hr, returned.errcnt⟩
  · have returned := queryForced_failed (s := tFail p.2 ign (waitT1 s)) failed
    exact ⟨_, turns_reactionAfterT1 same at_ ie iflag dec (.of_failure in_),
      returned.state, returned.ok, returned.cr, returned.hr, returned.errcnt⟩

end Sys2Proof.Machine
end

section
/-! SUPPORT. The arbitration loss, whose reaction is one `CR` write (40_sequencer.md R132). -/

namespace Sys2Proof.Machine

/-- Settles O15: the reaction is the one write of `CMD_RESTART`, and its frame is that of the write. -/
theorem arbitrationLossRequestsStart : Obligations.ArbitrationLossRequestsStart := by
  intro ign s
  rw [(ReactsTo.restart ign s).exec_eq]
  simp [State.writeCR, CmdWord.fields]

end Sys2Proof.Machine
end
